-- ==== Sys2Proof/Word.lean ====
section
/-! DEFINITION. The word types of the spec (00_scope.md R12, R13) and the packet of eight 16-bit words that
the host writes to the command port (30_encoding.md R90). -/

namespace Sys2Proof

/-- One byte of asset memory, and the width of a colour channel (R12 `u8`). -/
abbrev Byte := BitVec 8

/-- A 16-bit operand word, a register-port value or a packed colour (R12 `u16`). -/
abbrev Half := BitVec 16

/-- A 32-bit register (R12 `u32`). -/
abbrev Word := BitVec 32

/-- A command packet: eight 16-bit words, the host writes `w0` first (R90). -/
structure Packet where
  w0 : Half
  w1 : Half
  w2 : Half
  w3 : Half
  w4 : Half
  w5 : Half
  w6 : Half
  w7 : Half
deriving DecidableEq, Repr

end Sys2Proof
end

