-- ==== Sys2Proof/Machine/Operands.lean ====
section
/-! DEFINITION. The operand fields of a packet (30_encoding.md R91, R96 to R98, R105) and how a value is put
into one, for the decoder and the encoder. -/

namespace Sys2Proof.Machine

/-- `OP = W0[7:0]` (R91). -/
def packetOp (p : Packet) : Nat := p.w0.toNat % 256

/-- The flag bit `F[i] = W0[8 + i]` (R91). -/
def packetFlag (p : Packet) (i : Nat) : Bool := p.w0.getLsbD (8 + i)

/-- A word read as a signed 16-bit integer (R96). -/
def readS16 (w : Half) : Int := w.toInt

/-- A word read as `u16` (R98). -/
def readU16 (w : Half) : Nat := w.toNat

/-- A colour channel: only `Wk[7:0]` is used (R98). -/
def readChannel (w : Half) : Byte := w.setWidth 8

/-- A `u32` in two words, low half first (R97). -/
def readU32 (lo hi : Half) : Nat := lo.toNat + hi.toNat * 2 ^ 16

/-- The header word `OP + F * 256` with the flag bits 0 and 1; the other flag bits are 0 (R92, R104). -/
def headerWord (op : Nat) (f0 f1 : Bool) : Half := BitVec.ofNat 16 (op + 256 * (f0.toNat + 2 * f1.toNat))

/-- The word that carries a signed operand. -/
def writeS16 (v : Int) : Half := BitVec.ofInt 16 v

/-- The word that carries an unsigned operand. -/
def writeU16 (v : Nat) : Half := BitVec.ofNat 16 v

/-- The word that carries a colour channel. -/
def writeChannel (v : Byte) : Half := v.setWidth 16

/-- The low word of a `u32` operand (R97). -/
def writeLo (v : Nat) : Half := BitVec.ofNat 16 v

/-- The high word of a `u32` operand (R97). -/
def writeHi (v : Nat) : Half := BitVec.ofNat 16 (v / 2 ^ 16)

/-- The packet whose integer is `P = W0 + W1 * 2^16 + ... + W7 * 2^112` (R90). -/
def packetOfNat (P : Nat) : Packet where
  w0 := BitVec.ofNat 16 P
  w1 := BitVec.ofNat 16 (P / 2 ^ 16)
  w2 := BitVec.ofNat 16 (P / 2 ^ 32)
  w3 := BitVec.ofNat 16 (P / 2 ^ 48)
  w4 := BitVec.ofNat 16 (P / 2 ^ 64)
  w5 := BitVec.ofNat 16 (P / 2 ^ 80)
  w6 := BitVec.ofNat 16 (P / 2 ^ 96)
  w7 := BitVec.ofNat 16 (P / 2 ^ 112)

/-- The packet of an opcode-table row: its low `nbits` bits are `w`'s, the bits above are 0. -/
def tablePacket (nbits w : Nat) : Packet := packetOfNat (w % 2 ^ nbits)

end Sys2Proof.Machine
end

