-- ==== Sys2Proof/Syntax.lean ====
section
/-! DEFINITION. The 33 commands of 30_encoding.md R100, one constructor for each row of
spec/opcode_table.json, operands in assembler order. An operand read as `s16` is an `Int` and one read as
`u16` or `u32` a `Nat`, because "from there on the rules compute in unbounded integers" (R96); their ranges are
checked in `WellFormed`. Colour bits are bit vectors and flags are `Bool`. -/

namespace Sys2Proof

/-- A command (30_encoding.md R100). Format and class of each are in that rule's table. -/
inductive Instr where
  | nop
  | setFgRgb (r g b : Byte)
  | setBgRgb (r g b : Byte)
  | setFgPacked (p : Half)
  | setBgPacked (p : Half)
  | setLineWidth (width : Nat)
  | setAntialias (on : Bool)
  | setOrientation (o : Nat)
  | setOrigin (relative : Bool)
  | scroll (dy : Int)
  | setFont (base size : Nat)
  | setTextWrap (wrap wrapscroll : Bool) (left right bottom gap : Int)
  | clearErr
  | drawPixel (x y : Int)
  | fillRect (x y w h : Int)
  | hline (x1 y x2 : Int)
  | vline (x y1 y2 : Int)
  | drawRect (x y w h : Int)
  | drawLine (x1 y1 x2 y2 : Int)
  | drawCircle (xc yc r : Int)
  | drawOval (x y w h : Int)
  | drawRoundRect (x y w h r : Int)
  | fillRoundRect (x y w h r : Int)
  | drawText (erase haskern : Bool) (x y : Int) (text n kern : Nat)
  | drawImage (x y : Int) (base size : Nat)
  | measureText (haskern : Bool) (text n kern : Nat)
  | brOpen (base size : Nat)
  | brBit
  | brBits (n : Nat)
  | brNum
  | blendA (tofg : Bool) (alpha : Int)
  | blendO (opacity : Nat)
  | xformClip (physical : Bool) (x1 y1 x2 y2 : Int)
deriving DecidableEq, Repr

end Sys2Proof
end

