-- ==== Sys2Proof/WellFormed.lean ====
section
/-! DEFINITION. Which terms of `Instr` a packet can carry: each operand in the range of its field
(30_encoding.md R96 to R98). A value the field holds but the command's rule rejects (a line width of 0) is
well-formed: it is "not an illegal command" (R103) and the meaning answers it with its error code. -/

namespace Sys2Proof

/-- The range of an operand word read as a signed 16-bit integer (R96). -/
def fitsS16 (v : Int) : Bool := decide (-32768 ≤ v) && decide (v ≤ 32767)

/-- The range of an operand word read as `u16` (R98). -/
def fitsU16 (v : Nat) : Bool := decide (v < 2 ^ 16)

/-- The range of a `u32` carried in two words (R97). -/
def fitsU32 (v : Nat) : Bool := decide (v < 2 ^ 32)

/-- Every operand is in the range of the field that carries it. -/
def Instr.wf : Instr → Bool
  | .nop => true
  | .setFgRgb _ _ _ => true
  | .setBgRgb _ _ _ => true
  | .setFgPacked _ => true
  | .setBgPacked _ => true
  | .setLineWidth width => fitsU16 width
  | .setAntialias _ => true
  | .setOrientation o => fitsU16 o
  | .setOrigin _ => true
  | .scroll dy => fitsS16 dy
  | .setFont base size => fitsU32 base && fitsU32 size
  | .setTextWrap _ _ left right bottom gap => fitsS16 left && fitsS16 right && fitsS16 bottom && fitsS16 gap
  | .clearErr => true
  | .drawPixel x y => fitsS16 x && fitsS16 y
  | .fillRect x y w h => fitsS16 x && fitsS16 y && fitsS16 w && fitsS16 h
  | .hline x1 y x2 => fitsS16 x1 && fitsS16 y && fitsS16 x2
  | .vline x y1 y2 => fitsS16 x && fitsS16 y1 && fitsS16 y2
  | .drawRect x y w h => fitsS16 x && fitsS16 y && fitsS16 w && fitsS16 h
  | .drawLine x1 y1 x2 y2 => fitsS16 x1 && fitsS16 y1 && fitsS16 x2 && fitsS16 y2
  | .drawCircle xc yc r => fitsS16 xc && fitsS16 yc && fitsS16 r
  | .drawOval x y w h => fitsS16 x && fitsS16 y && fitsS16 w && fitsS16 h
  | .drawRoundRect x y w h r => fitsS16 x && fitsS16 y && fitsS16 w && fitsS16 h && fitsS16 r
  | .fillRoundRect x y w h r => fitsS16 x && fitsS16 y && fitsS16 w && fitsS16 h && fitsS16 r
  | .drawText _ _ x y text n kern => fitsS16 x && fitsS16 y && fitsU32 text && fitsU16 n && fitsU32 kern
  | .drawImage x y base size => fitsS16 x && fitsS16 y && fitsU32 base && fitsU32 size
  | .measureText _ text n kern => fitsU32 text && fitsU16 n && fitsU32 kern
  | .brOpen base size => fitsU32 base && fitsU32 size
  | .brBit => true
  | .brBits n => fitsU16 n
  | .brNum => true
  | .blendA _ alpha => fitsS16 alpha
  | .blendO opacity => fitsU16 opacity
  | .xformClip _ x1 y1 x2 y2 => fitsS16 x1 && fitsS16 y1 && fitsS16 x2 && fitsS16 y2

end Sys2Proof
end

