-- ==== Sys2Proof/Decode.lean ====
section
/-! DEFINITION. The decoder over the opcode map of 30_encoding.md R100 and the formats of R99, total on every
packet, and the encoder, written from the same tables. Decoding looks at `OP` only (R92). -/

namespace Sys2Proof

open Sys2Proof.Machine

/-- Why a packet is no command. -/
inductive DecodeError where
  /-- `OP` is reserved (R101); the engine answers it with `ERR_ILLEGAL_CMD` (60_exceptions.md R345). -/
  | reservedOpcode (op : Nat)
deriving DecidableEq, Repr

/-- The command a packet carries (R99, R100, R105), or the reserved opcode it holds. -/
def decode (p : Packet) : Except DecodeError Instr :=
  match packetOp p with
  | 0x00 => .ok .nop
  | 0x01 => .ok (.setFgRgb (readChannel p.w1) (readChannel p.w2) (readChannel p.w3))
  | 0x02 => .ok (.setBgRgb (readChannel p.w1) (readChannel p.w2) (readChannel p.w3))
  | 0x03 => .ok (.setFgPacked p.w1)
  | 0x04 => .ok (.setBgPacked p.w1)
  | 0x05 => .ok (.setLineWidth (readU16 p.w1))
  | 0x06 => .ok (.setAntialias (packetFlag p 0))
  | 0x07 => .ok (.setOrientation (readU16 p.w1))
  | 0x08 => .ok (.setOrigin (packetFlag p 0))
  | 0x09 => .ok (.scroll (readS16 p.w1))
  | 0x0A => .ok (.setFont (readU32 p.w1 p.w2) (readU32 p.w3 p.w4))
  | 0x0B => .ok (.setTextWrap (packetFlag p 0) (packetFlag p 1) (readS16 p.w1) (readS16 p.w2) (readS16 p.w3)
      (readS16 p.w4))
  | 0x0C => .ok .clearErr
  | 0x10 => .ok (.drawPixel (readS16 p.w1) (readS16 p.w2))
  | 0x11 => .ok (.fillRect (readS16 p.w1) (readS16 p.w2) (readS16 p.w3) (readS16 p.w4))
  | 0x12 => .ok (.hline (readS16 p.w1) (readS16 p.w2) (readS16 p.w3))
  | 0x13 => .ok (.vline (readS16 p.w1) (readS16 p.w2) (readS16 p.w3))
  | 0x14 => .ok (.drawRect (readS16 p.w1) (readS16 p.w2) (readS16 p.w3) (readS16 p.w4))
  | 0x15 => .ok (.drawLine (readS16 p.w1) (readS16 p.w2) (readS16 p.w3) (readS16 p.w4))
  | 0x16 => .ok (.drawCircle (readS16 p.w1) (readS16 p.w2) (readS16 p.w3))
  | 0x17 => .ok (.drawOval (readS16 p.w1) (readS16 p.w2) (readS16 p.w3) (readS16 p.w4))
  | 0x18 => .ok (.drawRoundRect (readS16 p.w1) (readS16 p.w2) (readS16 p.w3) (readS16 p.w4) (readS16 p.w5))
  | 0x19 => .ok (.fillRoundRect (readS16 p.w1) (readS16 p.w2) (readS16 p.w3) (readS16 p.w4) (readS16 p.w5))
  | 0x1A => .ok (.drawText (packetFlag p 0) (packetFlag p 1) (readS16 p.w1) (readS16 p.w2)
      (readU32 p.w3 p.w4) (readU16 p.w5) (readU32 p.w6 p.w7))
  | 0x1B => .ok (.drawImage (readS16 p.w1) (readS16 p.w2) (readU32 p.w3 p.w4) (readU32 p.w5 p.w6))
  | 0x20 => .ok (.measureText (packetFlag p 1) (readU32 p.w3 p.w4) (readU16 p.w5) (readU32 p.w6 p.w7))
  | 0x21 => .ok (.brOpen (readU32 p.w1 p.w2) (readU32 p.w3 p.w4))
  | 0x22 => .ok .brBit
  | 0x23 => .ok (.brBits (readU16 p.w1))
  | 0x24 => .ok .brNum
  | 0x25 => .ok (.blendA (packetFlag p 0) (readS16 p.w1))
  | 0x26 => .ok (.blendO (readU16 p.w1))
  | 0x27 => .ok (.xformClip (packetFlag p 0) (readS16 p.w1) (readS16 p.w2) (readS16 p.w3) (readS16 p.w4))
  | op => .error (.reservedOpcode op)

/-- The opcode of a command (R100). -/
def Instr.opcode : Instr → Nat
  | .nop => 0x00
  | .setFgRgb .. => 0x01
  | .setBgRgb .. => 0x02
  | .setFgPacked .. => 0x03
  | .setBgPacked .. => 0x04
  | .setLineWidth .. => 0x05
  | .setAntialias .. => 0x06
  | .setOrientation .. => 0x07
  | .setOrigin .. => 0x08
  | .scroll .. => 0x09
  | .setFont .. => 0x0A
  | .setTextWrap .. => 0x0B
  | .clearErr => 0x0C
  | .drawPixel .. => 0x10
  | .fillRect .. => 0x11
  | .hline .. => 0x12
  | .vline .. => 0x13
  | .drawRect .. => 0x14
  | .drawLine .. => 0x15
  | .drawCircle .. => 0x16
  | .drawOval .. => 0x17
  | .drawRoundRect .. => 0x18
  | .fillRoundRect .. => 0x19
  | .drawText .. => 0x1A
  | .drawImage .. => 0x1B
  | .measureText .. => 0x20
  | .brOpen .. => 0x21
  | .brBit => 0x22
  | .brBits .. => 0x23
  | .brNum => 0x24
  | .blendA .. => 0x25
  | .blendO .. => 0x26
  | .xformClip .. => 0x27

/-- The packet of a command (R99, R104, R105), 0 in every word and flag bit its format does not name (R92). -/
def encode (i : Instr) : Packet :=
  let h := headerWord i.opcode
  match i with
  | .nop => ⟨h false false, 0, 0, 0, 0, 0, 0, 0⟩
  | .setFgRgb r g b => ⟨h false false, writeChannel r, writeChannel g, writeChannel b, 0, 0, 0, 0⟩
  | .setBgRgb r g b => ⟨h false false, writeChannel r, writeChannel g, writeChannel b, 0, 0, 0, 0⟩
  | .setFgPacked p => ⟨h false false, p, 0, 0, 0, 0, 0, 0⟩
  | .setBgPacked p => ⟨h false false, p, 0, 0, 0, 0, 0, 0⟩
  | .setLineWidth width => ⟨h false false, writeU16 width, 0, 0, 0, 0, 0, 0⟩
  | .setAntialias on => ⟨h on false, 0, 0, 0, 0, 0, 0, 0⟩
  | .setOrientation o => ⟨h false false, writeU16 o, 0, 0, 0, 0, 0, 0⟩
  | .setOrigin relative => ⟨h relative false, 0, 0, 0, 0, 0, 0, 0⟩
  | .scroll dy => ⟨h false false, writeS16 dy, 0, 0, 0, 0, 0, 0⟩
  | .setFont base size => ⟨h false false, writeLo base, writeHi base, writeLo size, writeHi size, 0, 0, 0⟩
  | .setTextWrap wrap wrapscroll left right bottom gap =>
    ⟨h wrap wrapscroll, writeS16 left, writeS16 right, writeS16 bottom, writeS16 gap, 0, 0, 0⟩
  | .clearErr => ⟨h false false, 0, 0, 0, 0, 0, 0, 0⟩
  | .drawPixel x y => ⟨h false false, writeS16 x, writeS16 y, 0, 0, 0, 0, 0⟩
  | .fillRect x y w hh => ⟨h false false, writeS16 x, writeS16 y, writeS16 w, writeS16 hh, 0, 0, 0⟩
  | .hline x1 y x2 => ⟨h false false, writeS16 x1, writeS16 y, writeS16 x2, 0, 0, 0, 0⟩
  | .vline x y1 y2 => ⟨h false false, writeS16 x, writeS16 y1, writeS16 y2, 0, 0, 0, 0⟩
  | .drawRect x y w hh => ⟨h false false, writeS16 x, writeS16 y, writeS16 w, writeS16 hh, 0, 0, 0⟩
  | .drawLine x1 y1 x2 y2 => ⟨h false false, writeS16 x1, writeS16 y1, writeS16 x2, writeS16 y2, 0, 0, 0⟩
  | .drawCircle xc yc r => ⟨h false false, writeS16 xc, writeS16 yc, writeS16 r, 0, 0, 0, 0⟩
  | .drawOval x y w hh => ⟨h false false, writeS16 x, writeS16 y, writeS16 w, writeS16 hh, 0, 0, 0⟩
  | .drawRoundRect x y w hh r =>
    ⟨h false false, writeS16 x, writeS16 y, writeS16 w, writeS16 hh, writeS16 r, 0, 0⟩
  | .fillRoundRect x y w hh r =>
    ⟨h false false, writeS16 x, writeS16 y, writeS16 w, writeS16 hh, writeS16 r, 0, 0⟩
  | .drawText erase haskern x y text n kern =>
    ⟨h erase haskern, writeS16 x, writeS16 y, writeLo text, writeHi text, writeU16 n, writeLo kern, writeHi kern⟩
  | .drawImage x y base size =>
    ⟨h false false, writeS16 x, writeS16 y, writeLo base, writeHi base, writeLo size, writeHi size, 0⟩
  | .measureText haskern text n kern =>
    ⟨h false haskern, 0, 0, writeLo text, writeHi text, writeU16 n, writeLo kern, writeHi kern⟩
  | .brOpen base size => ⟨h false false, writeLo base, writeHi base, writeLo size, writeHi size, 0, 0, 0⟩
  | .brBit => ⟨h false false, 0, 0, 0, 0, 0, 0, 0⟩
  | .brBits n => ⟨h false false, writeU16 n, 0, 0, 0, 0, 0, 0⟩
  | .brNum => ⟨h false false, 0, 0, 0, 0, 0, 0, 0⟩
  | .blendA tofg alpha => ⟨h tofg false, writeS16 alpha, 0, 0, 0, 0, 0, 0⟩
  | .blendO opacity => ⟨h false false, writeU16 opacity, 0, 0, 0, 0, 0, 0⟩
  | .xformClip physical x1 y1 x2 y2 =>
    ⟨h physical false, writeS16 x1, writeS16 y1, writeS16 x2, writeS16 y2, 0, 0, 0⟩

/-- The instruction the decoder reads from the low `nbits` bits of `w`, numbered as spec/opcode_table.json
numbers them (R90), the bits above them 0. -/
def decodeTableWord (nbits w : Nat) : Option Instr :=
  match decode (tablePacket nbits w) with
  | .ok i => some i
  | .error _ => none

end Sys2Proof
end

