-- ==== Sys2Proof/Config.lean ====
section
/-! DEFINITION. The implementation parameters of 00_scope.md R10 with their legal ranges, and the one free
value of the model. The parameters of an instance are carried in `State.par` and no step changes them (R11,
70_reset_and_hazards.md R363). -/

namespace Sys2Proof

/-- The parameters of 00_scope.md R10, "the model takes the following parameters as arguments". -/
structure Params where
  /-- `DEV_W`, physical device width in pixels. -/
  devW : Nat
  /-- `DEV_H`, physical device height in pixels. -/
  devH : Nat
  /-- `AMEM_SIZE`, size of asset memory in bytes. -/
  amemSize : Nat
  /-- `BLEND_K`, divisor of `blendOpacity`; one legal value, 255 (93 I1). -/
  blendK : Nat
  /-- `RN_MAX_WIDTH`, width at which `readNumber` forces its final field; one legal value, 6 (93 I17). -/
  rnMaxWidth : Nat
  /-- `FONT_MAGIC`. -/
  fontMagic : Half
  /-- `FONT_TYPE_BITMASK`. -/
  fontTypeBitmask : Byte
  /-- `FONT_TYPE_AA`. -/
  fontTypeAa : Byte
  /-- `IMAGE_MAGIC`. -/
  imageMagic : Byte
  /-- `KERN_END`. -/
  kernEnd : Byte
  /-- `ID_VALUE`. -/
  idValue : Half
  /-- `CMD_FIFO_DEPTH`, packets the command port buffers; no rule depends on it (R367). -/
  cmdFifoDepth : Nat
deriving DecidableEq, Repr

/-- The defaults of R10. `AMEM_SIZE` and `CMD_FIFO_DEPTH` are the platform's: `0x400` is the size of the
start state of 95_test_vectors.md, 16 is this model's (DESIGN CHOICE, assumption 2). -/
def Params.default : Params where
  devW := 240
  devH := 320
  amemSize := 0x400
  blendK := 255
  rnMaxWidth := 6
  fontMagic := 0x5A46#16
  fontTypeBitmask := 1#8
  fontTypeAa := 2#8
  imageMagic := 0x5A#8
  kernEnd := 0x80#8
  idValue := 0x5058#16
  cmdFifoDepth := 16

/-- The legal ranges of R10. The parameters that are bit vectors are legal at every value. -/
def Params.wf (p : Params) : Bool :=
  decide (1 ≤ p.devW) && decide (p.devW ≤ 32767) && decide (1 ≤ p.devH) && decide (p.devH ≤ 32767)
    && decide (p.amemSize ≤ 2 ^ 32) && p.blendK == 255 && p.rnMaxWidth == 6 && decide (1 ≤ p.cmdFifoDepth)

/-- FREE VALUE. What a read of an address that is not in asset memory gives. 20_memory.md R62 says that no
rule forms such an address, which holds in every state that meets the invariants of 10_state.md R47; in any
other state nothing is known of the byte (DESIGN CHOICE, assumption 4). -/
opaque Config.absentByte : Nat → Byte

end Sys2Proof
end

