-- ==== Sys2Proof/Machine/State.lean ====
section
/-! DEFINITION. The state of the block: every persistent field of 10_state.md (R22 to R38, R46), the command
port's queue, the event stream, and the two inputs R21 names (parameters, asset memory), as plain data. -/

namespace Sys2Proof.Machine

/-- The four orientations, in the order of their codes (10_state.md R22). -/
inductive Orientation where
  | portrait
  | landscape
  | portraitFlip
  | landscapeFlip
deriving DecidableEq, Repr

/-- A colour value `(r, g, b, p)`, `p` the cached packed form (00_scope.md R16). -/
structure Color where
  r : Byte
  g : Byte
  b : Byte
  p : Half
deriving DecidableEq, Repr

/-- The seven events of 20_memory.md R66. Physical coordinates and counts are numbers, packed colours bits. -/
inductive Event where
  | acq
  | rel
  | region (x1 y1 x2 y2 : Nat)
  | pix (c : Half)
  | run (c : Half) (n : Nat)
  | scrollCmd (o : Nat)
  | orient (o : Orientation)
deriving DecidableEq, Repr

/-- The error codes of 60_exceptions.md R341, `ok` being code 0. -/
inductive ErrCode where
  | ok
  | illegalCmd
  | badOperand
  | assetRange
  | fontMagic
  | fontType
  | fontTrunc
  | noFont
  | glyphTrunc
  | imgMagic
  | imgComplen
  | imgOutlen
  | imgWindow
  | imgSize
  | imgTrunc
  | imgBackref
deriving DecidableEq, Repr

/-- Asset memory: the listed bytes, in the canonical form of `Memory.wf`. -/
abbrev Memory := List Host.Cell

/-- What an address of asset memory that is not listed holds. The spec gives asset memory no initial contents
(20_memory.md R65: "the platform's") and a read never faults (R64), so a byte is chosen
(DESIGN CHOICE, unsafe, assumption 3). -/
def unlistedByte : Byte := 0#8

/-- The addresses are all above `lo`, strictly rising, and no entry lists what an unlisted address holds. -/
def Memory.wfFrom (lo : Option Nat) : Memory → Bool
  | [] => true
  | (a, v) :: m => (lo.all fun l => decide (l < a)) && v != unlistedByte && Memory.wfFrom (some a) m

/-- The canonical form: addresses strictly rising, no entry equal to `unlistedByte`. -/
def Memory.wf (m : Memory) : Bool := Memory.wfFrom none m

/-- No constructor: the block has no trap and no fault (60_exceptions.md R340, R351) and "a read never faults"
(20_memory.md R64). What a manual would call a fault is an error code, after which the block goes on. -/
inductive Fault where
deriving DecidableEq, Repr

/-- Why a step gives no meaning. -/
inductive Refusal where
  /-- Raised by `exec` alone, for a command that has no meaning in this model yet; safe. No arm raises it. -/
  | notModelled (mnemonic : String)
deriving DecidableEq, Repr

/-- The block, with the inputs and the output it is joined to. -/
structure State where
  /-- Parameters of the instance (00_scope.md R10, R11); no step changes them. -/
  par : Params
  /-- `S.ORIENT` (R22). -/
  orient : Orientation
  /-- `S.ORIGIN` (R25), `true` is RELATIVE. -/
  origin : Bool
  /-- `S.SCROLL` (R26). -/
  scroll : Nat
  /-- `S.AA` (R27). -/
  aa : Bool
  /-- `S.LINEW` (R28). -/
  lineW : Nat
  /-- `S.FG` (R29). -/
  fg : Color
  /-- `S.BG` (R29). -/
  bg : Color
  /-- `S.FONT_VALID` (R30). -/
  fontValid : Bool
  /-- `S.FONT_BASE` (R30). -/
  fontBase : Word
  /-- `S.FONT_SIZE` (R30). -/
  fontSize : Word
  /-- `S.FONT_TYPE` (R30). -/
  fontType : Byte
  /-- `S.FONT_LH` (R30). -/
  fontLh : Byte
  /-- `S.FONT_BL` (R30). -/
  fontBl : Byte
  /-- `S.WRAP` (R31). -/
  wrap : Bool
  /-- `S.WRAPSCROLL` (R31). -/
  wrapScroll : Bool
  /-- `S.MARGIN_L` (R31). -/
  marginL : Half
  /-- `S.MARGIN_R` (R31). -/
  marginR : Half
  /-- `S.MARGIN_B` (R31). -/
  marginB : Half
  /-- `S.LINE_GAP` (R31). -/
  lineGap : Half
  /-- `S.CARET_X` (R32). -/
  caretX : Half
  /-- `S.CARET_Y` (R32). -/
  caretY : Half
  /-- `S.RES` (R33). -/
  res : Word
  /-- `S.BX1` (R33). -/
  boundX1 : Half
  /-- `S.BY1` (R33). -/
  boundY1 : Half
  /-- `S.BX2` (R33). -/
  boundX2 : Half
  /-- `S.BY2` (R33). -/
  boundY2 : Half
  /-- `S.BVIS` (R33). -/
  boundVis : Bool
  /-- `S.LASTERR` (R35). -/
  lastErr : Byte
  /-- `S.ERRSTICKY` (R35). -/
  errSticky : Half
  /-- `S.BUSY` (R36). -/
  busy : Bool
  /-- `S.BR_OPEN` (R37). -/
  brOpen : Bool
  /-- `S.BR_BASE` (R37). -/
  brBase : Word
  /-- `S.BR_SIZE` (R37). -/
  brSize : Word
  /-- `S.BR_POS` (R37), a bit position. -/
  brPos : Word
  /-- `S.NEST` (R38). -/
  nest : Nat
  /-- The command port's queue, oldest packet first (R43, R367); while BUSY is 1 its first packet is the one the
  engine has taken (R36). -/
  queue : List Packet
  /-- Asset memory (20_memory.md R61). -/
  amem : Memory
  /-- The event stream, oldest event first (20_memory.md R66). -/
  events : List Event
deriving DecidableEq, Repr

/-- The table of 10_state.md R46, over the default parameters and with nothing listed in asset memory
(assumptions 1 to 3). -/
def State.reset : State where
  par := Params.default
  orient := .portrait
  origin := true
  scroll := 0
  aa := false
  lineW := 1
  fg := ⟨255#8, 255#8, 255#8, 0xFFFF#16⟩
  bg := ⟨0#8, 0#8, 0#8, 0#16⟩
  fontValid := false
  fontBase := 0#32
  fontSize := 0#32
  fontType := 0#8
  fontLh := 0#8
  fontBl := 0#8
  wrap := false
  wrapScroll := false
  marginL := 0#16
  marginR := 0#16
  marginB := 0#16
  lineGap := 0#16
  caretX := 0#16
  caretY := 0#16
  res := 0#32
  boundX1 := 0#16
  boundY1 := 0#16
  boundX2 := 0#16
  boundY2 := 0#16
  boundVis := false
  lastErr := 0#8
  errSticky := 0#16
  busy := false
  brOpen := false
  brBase := 0#32
  brSize := 0#32
  brPos := 0#32
  nest := 0
  queue := []
  amem := []
  events := []

end Sys2Proof.Machine
end

