-- ==== Sys2Proof/Machine/Flags.lean ====
section
/-! DEFINITION. What stands for flags in this block (10_state.md R44): the numbers of the error codes
(60_exceptions.md R341), the sticky bits (R343), and the STATUS and MODE words of the register map
(10_state.md R40). -/

namespace Sys2Proof.Machine

/-- The code of an orientation (10_state.md R22). -/
def orientCode : Orientation → Nat
  | .portrait => 0
  | .landscape => 1
  | .portraitFlip => 2
  | .landscapeFlip => 3

/-- The orientation of a code; SET_ORIENTATION refuses every other number (40_config.md R119). -/
def orientOfCode : Nat → Option Orientation
  | 0 => some .portrait
  | 1 => some .landscape
  | 2 => some .portraitFlip
  | 3 => some .landscapeFlip
  | _ => none

/-- A flip variant (00_scope.md R19). -/
def isFlip : Orientation → Bool
  | .portrait => false
  | .landscape => false
  | .portraitFlip => true
  | .landscapeFlip => true

/-- A landscape variant (00_scope.md R19). -/
def isLandscape : Orientation → Bool
  | .portrait => false
  | .landscape => true
  | .portraitFlip => false
  | .landscapeFlip => true

/-- The number of an error code (R341). -/
def errNumber : ErrCode → Nat
  | .ok => 0
  | .illegalCmd => 1
  | .badOperand => 2
  | .assetRange => 3
  | .fontMagic => 4
  | .fontType => 5
  | .fontTrunc => 6
  | .noFont => 7
  | .glyphTrunc => 8
  | .imgMagic => 9
  | .imgComplen => 10
  | .imgOutlen => 11
  | .imgWindow => 12
  | .imgSize => 13
  | .imgTrunc => 14
  | .imgBackref => 15

/-- What the end of a command with code `e` makes of `S.ERRSTICKY` (R343): bit `n` is set when `n != 0`. -/
def stickyAfter (e : ErrCode) (sticky : Half) : Half :=
  match e with
  | .ok => sticky
  | e => sticky ||| BitVec.twoPow 16 (errNumber e)

/-- STATUS, register 0x01 (10_state.md R40). -/
def statusWord (s : State) : Half :=
  BitVec.ofNat 16 (s.busy.toNat + 2 * (s.lastErr != 0#8).toNat + 4 * s.fontValid.toNat + 8 * s.brOpen.toNat
    + 16 * (s.errSticky != 0#16).toNat)

/-- MODE, register 0x04 (10_state.md R40). -/
def modeWord (s : State) : Half :=
  BitVec.ofNat 16 (orientCode s.orient + 4 * s.origin.toNat + 8 * s.aa.toNat + 16 * s.wrap.toNat
    + 32 * s.wrapScroll.toNat)

end Sys2Proof.Machine
end

