-- ==== Sys2Proof/Machine/Ops.lean ====
section
/-! DEFINITION. The named operations over the state: asset memory (20_memory.md R61 to R67), the event stream
and the nesting counter (R66, R70), and the end of a command with its error code, which is all this block has of
taking an exception (60_exceptions.md R342, R343, R351). There is no return from one (R352). -/

namespace Sys2Proof.Machine

/-! ### Asset memory -/

/-- The byte a memory holds at an address. -/
def memLookup (a : Nat) : Memory → Byte
  | [] => unlistedByte
  | (b, v) :: m => if a = b then v else memLookup a m

/-- A memory with the byte at `a` set to `v`, in canonical form again. -/
def memInsert (a : Nat) (v : Byte) : Memory → Memory
  | [] => if v = unlistedByte then [] else [(a, v)]
  | (b, w) :: m =>
    if a < b then (if v = unlistedByte then (b, w) :: m else (a, v) :: (b, w) :: m)
    else if a = b then (if v = unlistedByte then m else (a, v) :: m)
    else (b, w) :: memInsert a v m

/-- `MemRead(a, 1)` (R61). Outside asset memory, where R62 says that no rule reads, a free value
(assumption 4). -/
def memRead (s : State) (a : Nat) : Byte :=
  if a < s.par.amemSize then memLookup a s.amem else Config.absentByte a

/-- `BE16(a)` (00_scope.md R15), the byte at the lower address the more significant (R67). -/
def be16 (s : State) (a : Nat) : Nat := (memRead s a).toNat * 2 ^ 8 + (memRead s (a + 1)).toNat

/-- `BE24(a)` (00_scope.md R15). -/
def be24 (s : State) (a : Nat) : Nat :=
  (memRead s a).toNat * 2 ^ 16 + (memRead s (a + 1)).toNat * 2 ^ 8 + (memRead s (a + 2)).toNat

/-- The range check of a slice of `size` bytes at `base` (R62). -/
def sliceInRange (s : State) (base size : Nat) : Bool := decide (base + size ≤ s.par.amemSize)

/-! ### Events and the nesting counter -/

/-- `emit` of a sequence of events, in order (R66). -/
def State.emit (s : State) (evs : List Event) : State := { s with events := s.events ++ evs }

/-- Entry to an operation that writes to the sink: ACQ on the change of the counter from 0 to 1 (R70). -/
def State.enter (s : State) : State :=
  { s with nest := s.nest + 1, events := s.events ++ (if s.nest = 0 then [.acq] else []) }

/-- Exit from it: REL on the change from 1 to 0 (R70). -/
def State.leave (s : State) : State :=
  { s with nest := s.nest - 1, events := s.events ++ (if s.nest = 1 then [.rel] else []) }

/-- One sub-operation of a drawing command: it enters, emits and leaves (R70). -/
def State.paint (s : State) (evs : List Event) : State := ((s.enter).emit evs).leave

/-! ### The end of a command -/

/-- How every command ends (30_encoding.md R106, 60_exceptions.md R343). -/
def State.endCommand (e : ErrCode) (s : State) : State :=
  { s with lastErr := BitVec.ofNat 8 (errNumber e), errSticky := stickyAfter e s.errSticky }

/-- A command that completed (code 0). -/
def complete (s : State) : Host.Outcome State Fault Refusal := .next (s.endCommand .ok)

/-- `fail E` in phase 1: nothing else changes and no event is emitted (R342). -/
def failEarly (e : ErrCode) (s : State) : Host.Outcome State Fault Refusal := .next (s.endCommand e)

/-- `fail E` in phase 2: what was done stays, the counter goes to 0 and REL is emitted (R342). -/
def failLate (e : ErrCode) (s : State) : Host.Outcome State Fault Refusal :=
  .next (({ s with nest := 0 }.emit [.rel]).endCommand e)

/-- A packet with a reserved opcode: `fail ERR_ILLEGAL_CMD` in phase 1, whatever its other bits (60_exceptions.md
R345). -/
def illegalCommand (s : State) : Host.Outcome State Fault Refusal := failEarly .illegalCmd s

/-- A drawing command that cannot fail: its body inside the ACQ/REL bracket (20_memory.md R70). -/
def drawing (body : State → State) (s : State) : Host.Outcome State Fault Refusal :=
  complete (body s.enter).leave

/-! ### The command port and BUSY -/

/-- The engine runs the packet at the head of the port, `rest` being the others; BUSY is 1 while it does
(10_state.md R36). -/
def State.takePacket (s : State) (rest : List Packet) : State := { s with queue := rest, busy := true }

/-- BUSY between two commands: 1 while the port holds a further packet (10_state.md R36). -/
def State.settleBusy (s : State) : State := { s with busy := !s.queue.isEmpty }

/-- The outcome of a command, BUSY settled after it. -/
def settle : Host.Outcome State Fault Refusal → Host.Outcome State Fault Refusal
  | .next s => .next s.settleBusy
  | .fault r => .fault r
  | .refused r => .refused r

/-! ### Scroll -/

/-- `S.SCROLL <- (S.SCROLL + d) mod DEV_H`, with SCROLLCMD when that changes it (20_memory.md R73, 40_config.md
R122, 47_glyph.md R296). -/
def State.scrollBy (s : State) (d : Int) : State :=
  let new := ((s.scroll + d) % s.par.devH).toNat
  if new = s.scroll then s else { s with scroll := new }.emit [.scrollCmd new]

end Sys2Proof.Machine
end

