-- ==== Sys2Proof/Machine/Compositor.lean ====
section
/-! DEFINITION. The colour compositor: 5-6-5 packing, the two blends and the BLEND commands
(42_compositor.md). -/

namespace Sys2Proof.Machine

/-- `pack` (R161): the low 3, 2 and 3 bits are dropped without rounding. -/
def pack (r g b : Byte) : Half :=
  BitVec.ofNat 16 ((r.toNat >>> 3) * 2048 + (g.toNat >>> 2) * 32 + (b.toNat >>> 3))

/-- The colour value of three channels, its packed form in sync (R111). -/
def colorOf (r g b : Byte) : Color := ⟨r, g, b, pack r g b⟩

/-- `unpack` (R162) with the operand itself as packed form (R111): the low bits of a channel repeat its high
bits. -/
def unpack (p : Half) : Color :=
  let r5 := (p.extractLsb' 11 5).toNat
  let g6 := (p.extractLsb' 5 6).toNat
  let b5 := (p.extractLsb' 0 5).toNat
  ⟨BitVec.ofNat 8 (r5 * 8 + (r5 >>> 2)), BitVec.ofNat 8 (g6 * 4 + (g6 >>> 4)), BitVec.ofNat 8 (b5 * 8 + (b5 >>> 2)), p⟩

/-- One channel of `blendAlpha` at a weight `0 .. 255` (R165), floor division. -/
def alphaChannel (bg fg : Byte) (a : Nat) : Byte :=
  BitVec.ofNat 8 ((bg.toNat * (255 - a) + fg.toNat * a) / 255)

/-- `blendAlpha` (R165): a negative alpha returns the background unmodified. -/
def blendAlpha (bg fg : Color) (a : Int) : Color :=
  if a < 0 then bg
  else
    let w := (min a 255).toNat
    colorOf (alphaChannel bg.r fg.r w) (alphaChannel bg.g fg.g w) (alphaChannel bg.b fg.b w)

/-- One channel of `blendOpacity` (R166), divisor `k` (`BLEND_K`), clamped to 255. -/
def opacityChannel (k : Nat) (fg bg : Byte) (o : Nat) : Byte :=
  BitVec.ofNat 8 (min 255 ((fg.toNat * (255 - o) + bg.toNat * o) / k))

/-- `blendOpacity` (R166): `o = 0` gives the foreground, `o = 255` the background. -/
def blendOpacity (k : Nat) (fg bg : Color) (o : Nat) : Color :=
  colorOf (opacityChannel k fg.r bg.r o) (opacityChannel k fg.g bg.g o) (opacityChannel k fg.b bg.b o)

/-- `c.r * 65536 + c.g * 256 + c.b`, the form in which BLEND_A and BLEND_O leave a colour in `S.RES`
(R168, R169). -/
def colorWord (c : Color) : Word := BitVec.ofNat 32 (c.r.toNat * 65536 + c.g.toNat * 256 + c.b.toNat)

/-- `S.FG` blended over `S.BG` at a coverage weight: the colour of every antialiased pixel (R167). -/
def State.blended (s : State) (a : Int) : Color := blendAlpha s.bg s.fg a

/-- BLEND_A (R168). -/
def execBlendA (tofg : Bool) (alpha : Int) (s : State) : Host.Outcome State Fault Refusal :=
  let c := s.blended alpha
  complete { s with res := colorWord c, fg := if tofg then c else s.fg }

/-- BLEND_O (R169). -/
def execBlendO (opacity : Nat) (s : State) : Host.Outcome State Fault Refusal :=
  if 255 < opacity then failEarly .badOperand s
  else complete { s with res := colorWord (blendOpacity s.par.blendK s.fg s.bg opacity) }

end Sys2Proof.Machine
end

