-- ==== Sys2Proof/Machine/Canvas.lean ====
section
/-! DEFINITION. The configuration commands (40_config.md). SET_FONT is in Glyph.lean. -/

namespace Sys2Proof.Machine

/-- NOP (R110). -/
def execNop (s : State) : Host.Outcome State Fault Refusal := complete s

/-- SET_FG_RGB (R112). -/
def execSetFgRgb (r g b : Byte) (s : State) : Host.Outcome State Fault Refusal :=
  complete { s with fg := colorOf r g b }

/-- SET_BG_RGB (R113). -/
def execSetBgRgb (r g b : Byte) (s : State) : Host.Outcome State Fault Refusal :=
  complete { s with bg := colorOf r g b }

/-- SET_FG_PACKED (R114). -/
def execSetFgPacked (p : Half) (s : State) : Host.Outcome State Fault Refusal :=
  complete { s with fg := unpack p }

/-- SET_BG_PACKED (R115). -/
def execSetBgPacked (p : Half) (s : State) : Host.Outcome State Fault Refusal :=
  complete { s with bg := unpack p }

/-- SET_LINE_WIDTH (R116). -/
def execSetLineWidth (width : Nat) (s : State) : Host.Outcome State Fault Refusal :=
  if 1 ≤ width ∧ width ≤ 255 then complete { s with lineW := width } else failEarly .badOperand s

/-- SET_ANTIALIAS (R117). -/
def execSetAntialias (on : Bool) (s : State) : Host.Outcome State Fault Refusal := complete { s with aa := on }

/-- SET_ORIENTATION (R119): the event is emitted also when the value does not change (20_memory.md R74). -/
def execSetOrientation (o : Nat) (s : State) : Host.Outcome State Fault Refusal :=
  match orientOfCode o with
  | some d => complete ({ s with orient := d }.emit [.orient d])
  | none => failEarly .badOperand s

/-- SET_ORIGIN (R120). -/
def execSetOrigin (relative : Bool) (s : State) : Host.Outcome State Fault Refusal :=
  complete { s with origin := relative }

/-- SCROLL (R122). -/
def execScroll (dy : Int) (s : State) : Host.Outcome State Fault Refusal := complete (s.scrollBy dy)

/-- SET_TEXT_WRAP (R124). -/
def execSetTextWrap (wrap wrapscroll : Bool) (left right bottom gap : Int) (s : State) :
    Host.Outcome State Fault Refusal :=
  complete { s with
    wrap := wrap
    wrapScroll := wrapscroll
    marginL := BitVec.ofInt 16 left
    marginR := BitVec.ofInt 16 right
    marginB := BitVec.ofInt 16 bottom
    lineGap := BitVec.ofInt 16 gap }

/-- CLEAR_ERR (R126). -/
def execClearErr (s : State) : Host.Outcome State Fault Refusal := complete { s with errSticky := 0#16 }

end Sys2Proof.Machine
end

