-- ==== Sys2Proof/Machine/Bounds.lean ====
section
/-! DEFINITION. The bounds pipeline: transform, clip, scroll shift, and XFORM_CLIP (43_bounds.md). -/

namespace Sys2Proof.Machine

/-- A rectangle with inclusive corners (00_scope.md R17). -/
structure Rect where
  x1 : Int
  y1 : Int
  x2 : Int
  y2 : Int
deriving DecidableEq, Repr

/-- `norm` (00_scope.md R17). -/
def rectNorm (r : Rect) : Rect := ⟨min r.x1 r.x2, min r.y1 r.y2, max r.x1 r.x2, max r.y1 r.y2⟩

/-- `LOG_W` (10_state.md R24). -/
def State.logW (s : State) : Int := if isLandscape s.orient then s.par.devH else s.par.devW

/-- `LOG_H` (10_state.md R24). -/
def State.logH (s : State) : Int := if isLandscape s.orient then s.par.devW else s.par.devH

/-- `T(x, y)` (R181): a logical point as a physical one. -/
def transformPoint (s : State) (x y : Int) : Int × Int :=
  match s.orient with
  | .portrait => (x, y)
  | .landscape => (s.par.devW - 1 - y, x)
  | .portraitFlip => (s.par.devW - 1 - x, s.par.devH - 1 - y)
  | .landscapeFlip => (y, s.par.devH - 1 - x)

/-- The inverse of `T` (R182). -/
def transformPointInv (s : State) (px py : Int) : Int × Int :=
  match s.orient with
  | .portrait => (px, py)
  | .landscape => (py, s.par.devW - 1 - px)
  | .portraitFlip => (s.par.devW - 1 - px, s.par.devH - 1 - py)
  | .landscapeFlip => (s.par.devH - 1 - py, px)

/-- `transformToDevice` (R181). -/
def transformToDevice (s : State) (r : Rect) : Rect :=
  let a := transformPoint s r.x1 r.y1
  let b := transformPoint s r.x2 r.y2
  rectNorm ⟨a.1, a.2, b.1, b.2⟩

/-- `band` (R184): the first and the last physical row of the scroll-visible band. -/
def scrollBand (s : State) : Int × Int :=
  if s.origin = false then (0, s.par.devH - 1)
  else if isFlip s.orient then (((s.par.devH : Int) - s.scroll) % s.par.devH, s.par.devH - 1)
  else if 0 < s.scroll then (0, (s.scroll : Int) - 1)
  else (0, s.par.devH - 1)

/-- `clipToVisible` (R183); `none` is the sentinel "invisible" (R185). -/
def clipToVisible (s : State) (r : Rect) : Option Rect :=
  if r.x2 < 0 ∨ (s.par.devW : Int) ≤ r.x1 ∨ r.y2 < 0 ∨ (s.par.devH : Int) ≤ r.y1 then none
  else
    let x1 := max r.x1 0
    let y1 := max r.y1 0
    let x2 := min r.x2 (s.par.devW - 1)
    let y2 := min r.y2 (s.par.devH - 1)
    let b := scrollBand s
    if y2 < b.1 ∨ b.2 < y1 then none else some ⟨x1, max y1 b.1, x2, min y2 b.2⟩

/-- `shift` (R186): the row of device memory that a clipped physical row is written to. -/
def scrollShift (s : State) (y : Int) : Int :=
  if s.origin = true ∧ 0 < s.scroll then (y + s.scroll) % s.par.devH else y

/-- `toDevice` (R187). -/
def toDevice (s : State) (r : Rect) : Option Rect := clipToVisible s (transformToDevice s (rectNorm r))

/-- The bounds result of a rectangle or of "invisible", as XFORM_CLIP stores it (R190). -/
def State.storeBounds (s : State) : Option Rect → State
  | none => { s with boundVis := false, boundX1 := 0#16, boundY1 := 0#16, boundX2 := 0#16, boundY2 := 0#16, res := 0#32 }
  | some c => { s with
      boundVis := true
      boundX1 := BitVec.ofInt 16 c.x1
      boundY1 := BitVec.ofInt 16 c.y1
      boundX2 := BitVec.ofInt 16 c.x2
      boundY2 := BitVec.ofInt 16 c.y2
      res := BitVec.ofInt 32 (scrollShift s c.y1 + scrollShift s c.y2 * 65536) }

/-- XFORM_CLIP (R190). -/
def execXformClip (physical : Bool) (x1 y1 x2 y2 : Int) (s : State) : Host.Outcome State Fault Refusal :=
  let r := rectNorm ⟨x1, y1, x2, y2⟩
  complete (s.storeBounds (clipToVisible s (if physical then r else transformToDevice s r)))

end Sys2Proof.Machine
end

