-- ==== Sys2Proof/Machine/Raster.lean ====
section
/-! DEFINITION. The two emitters `pixel` and `fill`, what is built on them directly, and their commands
(44_raster_basic.md). A drawing function gives the events of its work in order, as "a pure function of its
arguments and `CanvasState`" (R200); the commands append them to the stream through `State.paint`. -/

namespace Sys2Proof.Machine

/-- `pixel` (R201): one REGION and one PIX, or nothing. -/
def pixel (s : State) (c : Color) (x y : Int) : List Event :=
  if x < 0 ∨ s.logW ≤ x ∨ y < 0 ∨ s.logH ≤ y then []
  else
    match clipToVisible s (transformToDevice s ⟨x, y, x, y⟩) with
    | none => []
    | some b =>
      let px := b.x1.toNat
      let py := (scrollShift s b.y1).toNat
      [.region px py px py, .pix c.p]

/-- `region_run` (R203): the single filled-region command. -/
def regionRun (c : Color) (x1 y1 x2 y2 : Int) : List Event :=
  [.region x1.toNat y1.toNat x2.toNat y2.toNat, .run c.p ((x2 - x1 + 1) * (y2 - y1 + 1)).toNat]

/-- `fill` (R203): at most two filled regions, the high rows first where the shifted rows wrap. -/
def fill (s : State) (c : Color) (x1 y1 x2 y2 : Int) : List Event :=
  match toDevice s ⟨x1, y1, x2, y2⟩ with
  | none => []
  | some b =>
    let ya := scrollShift s b.y1
    let yb := scrollShift s b.y2
    if ya ≤ yb then regionRun c b.x1 ya b.x2 yb
    else regionRun c b.x1 ya b.x2 (s.par.devH - 1) ++ regionRun c b.x1 0 b.x2 yb

/-- `hline` (R204). -/
def hline (s : State) (c : Color) (x1 y x2 : Int) : List Event := fill s c x1 y x2 y

/-- `vline` (R204). -/
def vline (s : State) (c : Color) (x y1 y2 : Int) : List Event := fill s c x y1 x y2

/-- `rect` (R204): the outline, top, bottom, left, right. -/
def rectOutline (s : State) (c : Color) (x y w h : Int) : List Event :=
  if w ≤ 0 ∨ h ≤ 0 then []
  else
    let x2 := x + w - 1
    let y2 := y + h - 1
    hline s c x y x2 ++ hline s c x y2 x2 ++ vline s c x y y2 ++ vline s c x2 y y2

/-- The events of FILL_RECT (R206). -/
def fillRectEvents (s : State) (x y w h : Int) : List Event :=
  if 0 < w ∧ 0 < h then fill s s.fg x y (x + w - 1) (y + h - 1) else []

/-- DRAW_PIXEL (R205). -/
def execDrawPixel (x y : Int) (s : State) : Host.Outcome State Fault Refusal :=
  drawing (fun t => t.paint (pixel s s.fg x y)) s

/-- FILL_RECT (R206). -/
def execFillRect (x y w h : Int) (s : State) : Host.Outcome State Fault Refusal :=
  drawing (fun t => t.paint (fillRectEvents s x y w h)) s

/-- HLINE (R207). -/
def execHline (x1 y x2 : Int) (s : State) : Host.Outcome State Fault Refusal :=
  drawing (fun t => t.paint (hline s s.fg x1 y x2)) s

/-- VLINE (R208). -/
def execVline (x y1 y2 : Int) (s : State) : Host.Outcome State Fault Refusal :=
  drawing (fun t => t.paint (vline s s.fg x y1 y2)) s

/-- DRAW_RECT (R209). -/
def execDrawRect (x y w h : Int) (s : State) : Host.Outcome State Fault Refusal :=
  drawing (fun t => t.paint (rectOutline s s.fg x y w h)) s

end Sys2Proof.Machine
end

