-- ==== Sys2Proof/Machine/Glyph.lean ====
section
/-! DEFINITION. The glyph decoder: SET_FONT, the glyph table, MEASURE_TEXT, DRAW_TEXT and line wrap
(47_glyph.md). A loop of a rule runs on fuel that its bound covers (assumption 9). -/

namespace Sys2Proof.Machine

/-! ### SET_FONT -/

/-- The checks of SET_FONT in order (R275): the first that fails, or `none`. -/
def fontError (s : State) (base size : Nat) : Option ErrCode :=
  if !sliceInRange s base size then some .assetRange
  else if size < 5 then some .fontTrunc
  else if be16 s base ≠ s.par.fontMagic.toNat then some .fontMagic
  else if memRead s (base + 2) ≠ s.par.fontTypeBitmask ∧ memRead s (base + 2) ≠ s.par.fontTypeAa then some .fontType
  else none

/-- SET_FONT (R275). -/
def execSetFont (base size : Nat) (s : State) : Host.Outcome State Fault Refusal :=
  match fontError s base size with
  | some e => failEarly e s
  | none => complete { s with
      fontBase := BitVec.ofNat 32 base
      fontSize := BitVec.ofNat 32 size
      fontType := memRead s (base + 2)
      fontLh := memRead s (base + 3)
      fontBl := memRead s (base + 4)
      fontValid := true }

/-! ### Glyph records -/

/-- A glyph record (R272): the compressed flag `C`, advance `A`, raster direction `V`, margins `L`, `T`, `R`,
and the address and length of the body. -/
structure Glyph where
  compressed : Bool
  adv : Nat
  colMajor : Bool
  left : Nat
  top : Nat
  right : Nat
  bodyAt : Nat
  bodyLen : Nat
deriving DecidableEq, Repr

/-- What `lookup` returns (R274). -/
inductive Lookup where
  | absent
  | trunc
  | found (g : Glyph)
deriving DecidableEq, Repr

/-- `FB(k)` (R270). -/
def fontByte (s : State) (k : Nat) : Byte := memRead s (s.fontBase.toNat + k)

/-- `FB16(k)` (R270). -/
def fontHalf (s : State) (k : Nat) : Nat := be16 s (s.fontBase.toNat + k)

/-- The fields of the record at offset `p`, with `rl` its length (R272). -/
def glyphAt (s : State) (p rl : Nat) : Glyph where
  compressed := decide (2 ^ 15 ≤ fontHalf s (p + 2))
  adv := (fontByte s (p + 4)).toNat
  colMajor := (fontByte s (p + 5)).getLsbD 7
  left := (fontByte s (p + 5)).toNat % 128
  top := (fontByte s (p + 6)).toNat
  right := (fontByte s (p + 7)).toNat
  bodyAt := s.fontBase.toNat + p + 8
  bodyLen := rl - 8

/-- The scan of `lookup` (R274) from offset `p`. -/
def lookupLoop (s : State) (c : Nat) : Nat → Nat → Lookup
  | 0, _ => .trunc
  | fuel + 1, p =>
    let size := s.fontSize.toNat
    if size < p + 2 then .trunc
    else if fontHalf s p = 0 then .absent
    else if size < p + 8 then .trunc
    else
      let rl := fontHalf s (p + 2) % 2 ^ 15
      if rl < 8 ∨ size < p + rl then .trunc
      else if fontHalf s p = c then .found (glyphAt s p rl)
      else lookupLoop s c fuel (p + rl)

/-- `lookup` (R274): the linear scan, at most one pass for every 8 bytes of the table. -/
def lookupGlyph (s : State) (c : Nat) : Lookup := lookupLoop s c (s.fontSize.toNat / 8 + 1) 5

/-! ### Text and kerning -/

/-- The text operands of MEASURE_TEXT and DRAW_TEXT (R291 to R293). -/
structure TextArgs where
  erase : Bool
  haskern : Bool
  text : Nat
  n : Nat
  kern : Nat
deriving DecidableEq, Repr

/-- `char(i)` (R276). -/
def charAt (s : State) (t : TextArgs) (i : Nat) : Nat := be16 s (t.text + 2 * i)

/-- The byte at position `k` of the kerning sequence; past asset memory it counts as the sentinel (R277). -/
def kernByte (s : State) (t : TextArgs) (k : Nat) : Byte :=
  if s.par.amemSize ≤ t.kern + k then s.par.kernEnd else memRead s (t.kern + k)

/-- The loop of `kern(i)` (R277) over the positions from `k`. -/
def kernLoop (s : State) (t : TextArgs) : Nat → Nat → Int → Int
  | 0, _, last => last
  | more + 1, k, last =>
    if kernByte s t k = s.par.kernEnd then last else kernLoop s t more (k + 1) (kernByte s t k).toInt

/-- `kern(i)` (R277): the adjustment after the character at position `i`. -/
def kernAt (s : State) (t : TextArgs) (i : Nat) : Int := if t.haskern then kernLoop s t (i + 1) 0 0 else 0

/-- `adv(i)` (R278); `none` where the rule does `fail ERR_GLYPH_TRUNC`. -/
def advance (s : State) (t : TextArgs) (i : Nat) : Option Int :=
  match lookupGlyph s (charAt s t i) with
  | .trunc => none
  | .absent => some 0
  | .found g => some (g.adv + kernAt s t i)

/-- The common checks of the two text commands (R291): the first that fails, or `none`. -/
def textError (s : State) (t : TextArgs) : Option ErrCode :=
  if s.fontValid = false then some .noFont
  else if !sliceInRange s t.text (2 * t.n) then some .assetRange
  else none

/-- The loop of MEASURE_TEXT (R292) over `more` positions from `i`; `none` is `ERR_GLYPH_TRUNC`. -/
def measureLoop (s : State) (t : TextArgs) : Nat → Nat → Int → Option Int
  | 0, _, total => some total
  | more + 1, i, total =>
    if charAt s t i = 0 then some total
    else
      match advance s t i with
      | none => none
      | some a => measureLoop s t more (i + 1) (total + a)

/-- MEASURE_TEXT (R292). -/
def execMeasureText (haskern : Bool) (text n kern : Nat) (s : State) : Host.Outcome State Fault Refusal :=
  let t : TextArgs := ⟨false, haskern, text, n, kern⟩
  match textError s t with
  | some e => failEarly e s
  | none =>
    match measureLoop s t n 0 0 with
    | none => failEarly .glyphTrunc s
    | some total => complete { s with res := BitVec.ofInt 32 total }

/-! ### Decoding one glyph -/

/-- What is fixed while one glyph is drawn (R279, R280, R282): the paint colour `F`, the record, the bitmap
size, the top left texel, and the extent and count of lines along the raster direction. -/
structure GlyphDraw where
  f : Color
  g : Glyph
  gw : Int
  gh : Int
  ox : Int
  oy : Int
deriving DecidableEq, Repr

/-- `ext` (R282). -/
def glyphExt (d : GlyphDraw) : Int := if d.g.colMajor then d.gh else d.gw

/-- `lim` (R282). -/
def glyphLim (d : GlyphDraw) : Int := if d.g.colMajor then d.gw else d.gh

/-- The pixel of texel `(u, v)` (R282). -/
def glyphTexel (d : GlyphDraw) (u v : Int) : Int × Int :=
  if d.g.colMajor then (d.ox + v, d.oy + u) else (d.ox + u, d.oy + v)

/-- The byte at position `k` of the body (R272). -/
def bodyByte (s : State) (g : Glyph) (k : Nat) : Byte := memRead s (g.bodyAt + k)

/-- `seg` (R284): one `fill`, which the scroll wrap splits into two regions (44_raster_basic.md R203). R284's "one
REGION and one RUN" and R300's two events per line of a run leave the split out of account (DEDUCED,
assumption 19). -/
def glyphSeg (s : State) (d : GlyphDraw) (u n v : Int) : List Event :=
  if d.g.colMajor then fill s d.f (d.ox + v) (d.oy + u) (d.ox + v) (d.oy + u + n - 1)
  else fill s d.f (d.ox + u) (d.oy + v) (d.ox + u + n - 1) (d.oy + v)

/-- The cursor of the glyph decoder (R283). -/
structure GlyphCursor where
  u : Int
  v : Int
deriving DecidableEq, Repr

/-- The cursor moved `n` texels along its line, into the next line at the end (R283): `step1` for `n = 1`. -/
def cursorMove (d : GlyphDraw) (c : GlyphCursor) (n : Int) : GlyphCursor :=
  if c.u + n = glyphExt d then ⟨0, c.v + 1⟩ else ⟨c.u + n, c.v⟩

/-- `run` (R283): a run of `ln` texels, in pieces that wrap into the next line and are cut at the last. -/
def glyphRun (s : State) (d : GlyphDraw) (on : Bool) : Nat → Int → GlyphCursor → List Event × GlyphCursor
  | 0, _, c => ([], c)
  | fuel + 1, ln, c =>
    if 0 < ln ∧ c.v < glyphLim d then
      let n := min ln (glyphExt d - c.u)
      let rest := glyphRun s d on fuel (ln - n) (cursorMove d c n)
      ((if on then glyphSeg s d c.u n c.v else []) ++ rest.1, rest.2)
    else ([], c)

/-- A run of `ln` texels; each piece takes at least one of them. -/
def takeRun (s : State) (d : GlyphDraw) (on : Bool) (ln : Nat) (c : GlyphCursor) : List Event × GlyphCursor :=
  glyphRun s d on ln ln c

/-- The colour of a coverage texel (R288). -/
def coverageColor (s : State) (d : GlyphDraw) (v7 : Nat) : Color :=
  blendOpacity s.par.blendK d.f s.bg (255 - (v7 * 2 + v7 / 64))

/-- One body byte of a bitmask run glyph (R286). -/
def maskRunByte (s : State) (d : GlyphDraw) (b : Byte) (c : GlyphCursor) : List Event × GlyphCursor :=
  takeRun s d (b.getLsbD 7) (b.toNat % 128) c

/-- One body byte of an antialiased glyph (R287, R288). -/
def coverageByte (s : State) (d : GlyphDraw) (b : Byte) (c : GlyphCursor) : List Event × GlyphCursor :=
  if b.getLsbD 7 then takeRun s d (b.getLsbD 6) (b.toNat % 64) c
  else
    let p := glyphTexel d c.u c.v
    (pixel s (coverageColor s d (b.toNat % 128)) p.1 p.2, cursorMove d c 1)

/-- The body of a run-coded glyph (R283), `more` bytes from position `k`, each taken by `one`; the rest is
ignored once the cursor is past the last line. -/
def bodyLoop (s : State) (d : GlyphDraw) (one : Byte → GlyphCursor → List Event × GlyphCursor) :
    Nat → Nat → GlyphCursor → List Event
  | 0, _, _ => []
  | more + 1, k, c =>
    if glyphLim d ≤ c.v then []
    else
      let r := one (bodyByte s d.g k) c
      r.1 ++ bodyLoop s d one more (k + 1) r.2

/-- The texel in column `c` of row `r` of an explicit-row glyph with `rb` bytes a row (R285): a 0 bit paints. -/
def explicitTexel (s : State) (d : GlyphDraw) (rb r c : Nat) : List Event :=
  if (bodyByte s d.g (r * rb + c / 8)).getLsbD (7 - c % 8) then [] else pixel s d.f (d.ox + c) (d.oy + r)

/-- Explicit rows (R285). -/
def explicitRows (s : State) (d : GlyphDraw) : List Event :=
  let gw := d.gw.toNat
  let rb := (gw + 7) / 8
  let rows := min d.gh.toNat (d.g.bodyLen / rb)
  (List.range rows).flatMap fun r => (List.range gw).flatMap fun c => explicitTexel s d rb r c

/-- The body by the decoder that font type and record select (R281). -/
def glyphBody (s : State) (d : GlyphDraw) : List Event :=
  if s.fontType = s.par.fontTypeBitmask then
    (if d.g.compressed then bodyLoop s d (maskRunByte s d) d.g.bodyLen 0 ⟨0, 0⟩ else explicitRows s d)
  else bodyLoop s d (coverageByte s d) d.g.bodyLen 0 ⟨0, 0⟩

/-- The geometry of a glyph with the caret at `(gx, gy)` (R279), painted in `f`. -/
def glyphDraw (s : State) (f : Color) (g : Glyph) (gx gy : Int) : GlyphDraw where
  f := f
  g := g
  gw := (g.adv : Int) - g.left - g.right
  gh := (s.fontLh.toNat : Int) - g.top
  ox := gx + g.left
  oy := gy + g.top

/-- The events of one glyph (R279 to R289). -/
def glyphEvents (s : State) (f : Color) (g : Glyph) (gx gy : Int) : List Event :=
  let d := glyphDraw s f g gx gy
  if d.gw ≤ 0 ∨ d.gh ≤ 0 then [] else glyphBody s d

/-! ### Line wrap -/

/-- The word separators are space and newline (R294). -/
def isSeparator (c : Nat) : Bool := c = 0x20 || c = 0x0A

/-- The loop of `need(i)` (R294) over the rest of a word; `none` is `ERR_GLYPH_TRUNC`. -/
def wordLoop (s : State) (t : TextArgs) : Nat → Nat → Int → Option Int
  | 0, _, w => some w
  | more + 1, j, w =>
    if charAt s t j = 0 ∨ isSeparator (charAt s t j) then some w
    else
      match advance s t j with
      | none => none
      | some a => wordLoop s t more (j + 1) (w + a)

/-- `need(i)` (R294). -/
def needAt (s : State) (t : TextArgs) (i : Nat) : Option Int :=
  if (i = 0 ∨ isSeparator (charAt s t (i - 1))) ∧ charAt s t i ≠ 0x20 then wordLoop s t (t.n - i) i 0
  else advance s t i

/-- A text being drawn: the state so far and the caret, which is not bounded to 16 bits (R293, R296). -/
structure TextRun where
  st : State
  cx : Int
  cy : Int
deriving DecidableEq, Repr

/-- `wrapscroll` (R296): scroll by the overflow, fill the exposed band in `S.BG`, move the caret back. -/
def wrapScrollStep (r : TextRun) : TextRun :=
  let mb := r.st.marginB.toInt
  let ov := r.cy + r.st.fontLh.toNat - mb
  let st := r.st.scrollBy ov
  ⟨st.paint (fill st st.bg 0 (mb - ov) (st.logW - 1) (mb - 1)), r.cx, r.cy - ov⟩

/-- `newline` (R295). -/
def newline (r : TextRun) : TextRun :=
  let r' : TextRun := ⟨r.st, r.st.marginL.toInt, r.cy + r.st.fontLh.toNat + r.st.lineGap.toInt⟩
  if r.st.wrapScroll = true ∧ r.st.orient = .portrait ∧ r.st.marginB.toInt < r'.cy + r.st.fontLh.toNat then
    wrapScrollStep r'
  else r'

/-- What the wrap step makes of one character (R293, R294). -/
inductive Placed where
  /-- A glyph scan of the break test ran into the end of the font: the command fails here. -/
  | trunc
  /-- The character was a newline: nothing to draw. -/
  | skip (r : TextRun)
  /-- The character is drawn at the caret of `r`. -/
  | place (r : TextRun)
deriving DecidableEq, Repr

/-- The wrap step before character `i` (R293). -/
def wrapStep (t : TextArgs) (i : Nat) (r : TextRun) : Placed :=
  if r.st.wrap = false then .place r
  else if charAt r.st t i = 0x0A then .skip (newline r)
  else
    match needAt r.st t i with
    | none => .trunc
    | some w =>
      if r.st.marginR.toInt < r.cx + w ∧ r.st.marginL.toInt < r.cx then .place (newline r) else .place r

/-- The paint colour `F` (R280). -/
def textColor (s : State) (t : TextArgs) : Color := if t.erase then s.bg else s.fg

/-- Drawing the glyph of character `i` at the caret and advancing it (R293). -/
def placeGlyph (t : TextArgs) (i : Nat) (g : Glyph) (r : TextRun) : TextRun :=
  ⟨r.st.paint (glyphEvents r.st (textColor r.st t) g r.cx r.cy), r.cx + g.adv + kernAt r.st t i, r.cy⟩

/-- The loop of DRAW_TEXT (R293) over `more` positions from `i`; `false` says that it failed with
`ERR_GLYPH_TRUNC` at the caret it returns. -/
def textLoop (t : TextArgs) : Nat → Nat → TextRun → TextRun × Bool
  | 0, _, r => (r, true)
  | more + 1, i, r =>
    if charAt r.st t i = 0 then (r, true)
    else
      match wrapStep t i r with
      | .trunc => (r, false)
      | .skip r' => textLoop t more (i + 1) r'
      | .place r' =>
        match lookupGlyph r'.st (charAt r'.st t i) with
        | .trunc => (r', false)
        | .absent => textLoop t more (i + 1) r'
        | .found g => textLoop t more (i + 1) (placeGlyph t i g r')

/-- The caret stored at the end of DRAW_TEXT, its low 16 bits (10_state.md R32). -/
def storeCaret (r : TextRun) : State :=
  { r.st with caretX := BitVec.ofInt 16 r.cx, caretY := BitVec.ofInt 16 r.cy }

/-- DRAW_TEXT (R293). -/
def execDrawText (erase haskern : Bool) (x y : Int) (text n kern : Nat) (s : State) :
    Host.Outcome State Fault Refusal :=
  let t : TextArgs := ⟨erase, haskern, text, n, kern⟩
  match textError s t with
  | some e => failEarly e s
  | none =>
    let r := textLoop t n 0 ⟨s.enter, x, y⟩
    if r.2 then complete (storeCaret r.1).leave else failLate .glyphTrunc (storeCaret r.1)

end Sys2Proof.Machine
end

