-- ==== Sys2Proof/Machine/BitReader.lean ====
section
/-! DEFINITION. The bit reader unit and the BR commands (41_bitreader.md). -/

namespace Sys2Proof.Machine

/-- A bit reader `(base, size, pos)` (R140), `size` in bytes and `pos` in bits. -/
structure BitReader where
  base : Nat
  size : Nat
  pos : Nat
deriving DecidableEq, Repr

/-- `readBit` (R141): the next bit, most significant first; 0 past the end; the position always advances. -/
def readBit (s : State) (br : BitReader) : Nat × BitReader :=
  let after := { br with pos := br.pos + 1 }
  if 8 * br.size ≤ br.pos then (0, after)
  else (((memRead s (br.base + br.pos / 8)).getLsbD (7 - br.pos % 8)).toNat, after)

/-- The loop of `readBits`: `n` more bits below `v` (R143). -/
def readBitsLoop (s : State) : Nat → Nat → BitReader → Nat × BitReader
  | 0, v, br => (v, br)
  | n + 1, v, br => readBitsLoop s n (2 * v + (readBit s br).1) (readBit s br).2

/-- `readBits` (R143): a field that would pass the end is 0 whole, and the position advances all the same. -/
def readBits (s : State) (n : Nat) (br : BitReader) : Nat × BitReader :=
  if 8 * br.size < br.pos + n then (0, { br with pos := br.pos + n }) else readBitsLoop s n 0 br

/-- The loop of `readNumber` (R144). `left` is `RN_MAX_WIDTH - width`: at 0 the final field is forced. -/
def readNumberLoop (s : State) : Nat → Nat → Nat → BitReader → Nat × BitReader
  | 0, width, base, br => (base + (readBits s width br).1, (readBits s width br).2)
  | left + 1, width, base, br =>
    if (readBit s br).1 = 0 then
      (base + (readBits s width (readBit s br).2).1, (readBits s width (readBit s br).2).2)
    else readNumberLoop s left (width + 1) (2 * base) (readBit s br).2

/-- `readNumber` (R144), the code of R145. -/
def readNumber (s : State) (br : BitReader) : Nat × BitReader := readNumberLoop s (s.par.rnMaxWidth - 1) 1 2 br

/-- The unit-access reader of the state (R147). -/
def State.unitReader (s : State) : BitReader := ⟨s.brBase.toNat, s.brSize.toNat, s.brPos.toNat⟩

/-- A result and the saturated position, stored (R152). -/
def State.storeRead (s : State) (r : Nat × BitReader) : State :=
  { s with res := BitVec.ofNat 32 r.1, brPos := BitVec.ofNat 32 (min r.2.pos (2 ^ 32 - 1)) }

/-- BR_OPEN (R148). -/
def execBrOpen (base size : Nat) (s : State) : Host.Outcome State Fault Refusal :=
  if !sliceInRange s base size then failEarly .assetRange s
  else if 0x1FFFFFFF < size then failEarly .badOperand s
  else complete { s with brBase := BitVec.ofNat 32 base, brSize := BitVec.ofNat 32 size, brPos := 0#32, brOpen := true }

/-- BR_BIT (R149). -/
def execBrBit (s : State) : Host.Outcome State Fault Refusal :=
  if !s.brOpen then failEarly .badOperand s else complete (s.storeRead (readBit s s.unitReader))

/-- BR_BITS (R150). -/
def execBrBits (n : Nat) (s : State) : Host.Outcome State Fault Refusal :=
  if !s.brOpen then failEarly .badOperand s
  else if 8 < n then failEarly .badOperand s
  else complete (s.storeRead (readBits s n s.unitReader))

/-- BR_NUM (R151). -/
def execBrNum (s : State) : Host.Outcome State Fault Refusal :=
  if !s.brOpen then failEarly .badOperand s else complete (s.storeRead (readNumber s s.unitReader))

end Sys2Proof.Machine
end

