-- ==== Sys2Proof/Machine/Image.lean ====
section
/-! DEFINITION. The image codec and DRAW_IMAGE (48_image.md). A loop of a rule runs on fuel that its bound
covers (assumption 9). -/

namespace Sys2Proof.Machine

/-- The header fields of an image (R310). -/
structure ImageHeader where
  clen : Nat
  olen : Nat
  win : Nat
  w : Nat
  h : Nat
deriving DecidableEq, Repr

/-- The header of the image at `base` (R310). -/
def imageHeader (s : State) (base : Nat) : ImageHeader where
  clen := be24 s (base + 1)
  olen := be24 s (base + 4)
  win := (memRead s (base + 7)).toNat
  w := be16 s (base + 8)
  h := be16 s (base + 10)

/-- An image dimension is out of range (R313 check 6). -/
def badExtent (v : Nat) : Bool := v = 0 || decide (0x8000 ≤ v)

/-- The seven checks of R313 in order: the first that fails, or `none`. -/
def imageError (s : State) (base size : Nat) : Option ErrCode :=
  let hd := imageHeader s base
  if !sliceInRange s base size then some .assetRange
  else if size < 12 then some .imgTrunc
  else if memRead s base ≠ s.par.imageMagic then some .imgMagic
  else if hd.clen = 0 then some .imgComplen
  else if hd.win = 0 then some .imgWindow
  else if badExtent hd.w || badExtent hd.h then some .imgSize
  else if hd.olen ≠ 2 * hd.w * hd.h then some .imgOutlen
  else none

/-! ### Row emission -/

/-- The pixels of one part of a row (R325), row-major over the region: physical rows from `y0`, unshifted. -/
def partPixels (s : State) (x : Int) (row : List Half) (x1 y0 : Int) (cols rows : Nat) : List Event :=
  (List.range rows).flatMap fun k =>
    (List.range cols).map fun j =>
      .pix (row.getD ((transformPointInv s (x1 + j) (y0 + k)).1 - x).toNat 0#16)

/-- `part` (R325): one region and the pixels that fill it. -/
def rowPart (s : State) (x : Int) (row : List Half) (x1 ya x2 yb y0 : Int) : List Event :=
  .region x1.toNat ya.toNat x2.toNat yb.toNat
    :: partPixels s x row x1 y0 (x2 - x1 + 1).toNat (yb - ya + 1).toNat

/-- `emitRow` (R325): logical row `ly` with the pixels `row`, clipped and shifted like any drawing. -/
def emitRow (s : State) (x ly : Int) (row : List Half) : List Event :=
  match toDevice s ⟨x, ly, x + row.length - 1, ly⟩ with
  | none => []
  | some b =>
    let ya := scrollShift s b.y1
    let yb := scrollShift s b.y2
    if ya ≤ yb then rowPart s x row b.x1 ya b.x2 yb b.y1
    else
      rowPart s x row b.x1 ya b.x2 (s.par.devH - 1) b.y1
        ++ rowPart s x row b.x1 0 b.x2 yb (b.y1 + (s.par.devH - ya))

/-! ### The decode loop -/

/-- The decoder's transient state (R318), and the events of the rows emitted so far. -/
structure ImageDec where
  br : BitReader
  window : List Byte
  wpos : Nat
  count : Nat
  hi : Byte
  rowbuf : List Half
  row : Nat
  out : List Event
deriving DecidableEq, Repr

/-- What one DRAW_IMAGE keeps fixed: its position and its header. -/
structure ImageArgs where
  x : Int
  y : Int
  hd : ImageHeader
deriving DecidableEq, Repr

/-- The decoder at the start of phase 2 (R314, R318). -/
def imageStart (base size : Nat) (hd : ImageHeader) : ImageDec where
  br := ⟨base + 12, min hd.clen (size - 12), 0⟩
  window := List.replicate hd.win 0#8
  wpos := 0
  count := 0
  hi := 0#8
  rowbuf := []
  row := 0
  out := []

/-- The byte entered into the window, before a pixel is formed from it (R319). -/
def windowPush (a : ImageArgs) (b : Byte) (d : ImageDec) : ImageDec :=
  { d with window := d.window.set d.wpos b, wpos := (d.wpos + 1) % a.hd.win, count := d.count + 1 }

/-- A pixel appended to the row, and the row emitted when it is full (R319). -/
def rowPush (s : State) (a : ImageArgs) (p : Half) (d : ImageDec) : ImageDec :=
  let row := d.rowbuf ++ [p]
  if row.length = a.hd.w then
    { d with rowbuf := [], row := d.row + 1, out := d.out ++ emitRow s a.x (a.y + d.row) row }
  else { d with rowbuf := row }

/-- `out` (R319): one decoded byte delivered. -/
def deliver (s : State) (a : ImageArgs) (b : Byte) (d : ImageDec) : ImageDec :=
  let d' := windowPush a b d
  if d'.count % 2 = 1 then { d' with hi := b } else rowPush s a (d'.hi ++ b) d'

/-- The byte `off` positions back in the window (R320); `off = 1` is the byte written last. -/
def windowAt (a : ImageArgs) (off : Nat) (d : ImageDec) : Byte :=
  d.window.getD (((d.wpos : Int) - off) % a.hd.win).toNat 0#8

/-- The copy of a back-reference (R320): byte by byte, cut at `olen` (R324). -/
def copyLoop (s : State) (a : ImageArgs) (off : Nat) : Nat → ImageDec → ImageDec
  | 0, d => d
  | cnt + 1, d =>
    if a.hd.olen ≤ d.count then d else copyLoop s a off cnt (deliver s a (windowAt a off d) d)

/-- One token of the stream (R320); `none` is an offset larger than the window (R322). -/
def imageToken (s : State) (a : ImageArgs) (d : ImageDec) : Option ImageDec :=
  let flag := readBit s d.br
  if flag.1 = 0 then
    let lit := readBits s 8 flag.2
    some (deliver s a (BitVec.ofNat 8 lit.1) { d with br := lit.2 })
  else
    let off := readNumber s flag.2
    let cnt := readNumber s off.2
    if a.hd.win < off.1 - 1 then none
    else some (copyLoop s a (off.1 - 1) (cnt.1 - 1) { d with br := cnt.2 })

/-- The decode loop (R320, R321); `false` says that it failed with `ERR_IMG_BACKREF`, the rows emitted before
that kept. Each pass delivers at least one byte, so `olen` passes are enough. -/
def imageLoop (s : State) (a : ImageArgs) : Nat → ImageDec → ImageDec × Bool
  | 0, d => (d, true)
  | fuel + 1, d =>
    if a.hd.olen ≤ d.count then (d, true)
    else
      match imageToken s a d with
      | none => (d, false)
      | some d' => imageLoop s a fuel d'

/-- The rows of an image and whether its decode succeeded; nothing is decoded when no part of the image is
visible (R312, R317). -/
def imageDecode (s : State) (x y : Int) (base size : Nat) : List Event × Bool :=
  let hd := imageHeader s base
  match toDevice s ⟨x, y, x + hd.w - 1, y + hd.h - 1⟩ with
  | none => ([], true)
  | some _ =>
    let r := imageLoop s ⟨x, y, hd⟩ hd.olen (imageStart base size hd)
    (r.1.out, r.2)

/-- DRAW_IMAGE (R312). -/
def execDrawImage (x y : Int) (base size : Nat) (s : State) : Host.Outcome State Fault Refusal :=
  match imageError s base size with
  | some e => failEarly e s
  | none =>
    let r := imageDecode s x y base size
    let t := s.enter.paint r.1
    if r.2 then complete t.leave else failLate .imgBackref t

end Sys2Proof.Machine
end

