-- ==== Sys2Proof/Machine/Line.lean ====
section
/-! DEFINITION. DRAW_LINE and its three rasterizers: Bresenham, Wu, thick (45_raster_line.md). Each walk gives
the points it visits in order; a `while` of the rule runs on fuel that its bound covers (assumption 9). -/

namespace Sys2Proof.Machine

/-! ### Bresenham -/

/-- The loop of `bresLine` (R222) toward `(x2, y2)`: the points plotted, in order. -/
def bresLoop (x2 y2 sx dx dy : Int) : Nat → Int → Int → Int → List (Int × Int)
  | 0, _, _, _ => []
  | fuel + 1, x, y, err =>
    (x, y) ::
      (if x = x2 ∧ y = y2 then []
       else
         let e2 := 2 * err
         let takeX := -dy < e2
         let takeY := e2 < dx
         bresLoop x2 y2 sx dx dy fuel (if takeX then x + sx else x) (if takeY then y + 1 else y)
           (err - (if takeX then dy else 0) + (if takeY then dx else 0)))

/-- `bresLine` after its end points are in canonical order (R222). The loop makes `max dx dy + 1` passes
(R223). -/
def bresFrom (x1 y1 x2 y2 : Int) : List (Int × Int) :=
  let dx : Int := (x2 - x1).natAbs
  let dy := y2 - y1
  bresLoop x2 y2 (if x1 < x2 then 1 else -1) dx dy (dx + dy).toNat.succ x1 y1 (dx - dy)

/-- The points of `bresLine` (R222), which first swaps its end points into a canonical order. -/
def bresPoints (x1 y1 x2 y2 : Int) : List (Int × Int) :=
  if y2 < y1 ∨ (y1 = y2 ∧ x2 < x1) then bresFrom x2 y2 x1 y1 else bresFrom x1 y1 x2 y2

/-- `bresLine` (R222). -/
def bresLine (s : State) (x1 y1 x2 y2 : Int) : List Event :=
  (bresPoints x1 y1 x2 y2).flatMap fun p => pixel s s.fg p.1 p.2

/-! ### Wu -/

/-- A point to plot with its coverage weight. -/
structure Plot where
  x : Int
  y : Int
  a : Int
deriving DecidableEq, Repr

/-- The two plots of one step of `wuLine` (R225), with `steep` undone. -/
def wuStep (steep : Bool) (x1 y1 dx dy i : Int) : List Plot :=
  let num := i * dy
  let yi := num / dx
  let fr := num - yi * dx
  let a2 := (255 * fr + dx / 2) / dx
  let a1 := 255 - a2
  let u := x1 + i
  let v := y1 + yi
  if steep then [⟨v, u, a1⟩, ⟨v + 1, u, a2⟩] else [⟨u, v, a1⟩, ⟨u, v + 1, a2⟩]

/-- The steps of `wuLine` along a major axis that grows (R225). -/
def wuFrom (steep : Bool) (x1 y1 x2 y2 : Int) : List Plot :=
  (List.range (x2 - x1 + 1).toNat).flatMap fun i => wuStep steep x1 y1 (x2 - x1) (y2 - y1) i

/-- The plots of `wuLine` in order (R225), after the swaps of axes and of end points, so that both ends give the same
order (DEDUCED, against a remark of R226, assumption 15). -/
def wuPlots (x1 y1 x2 y2 : Int) : List Plot :=
  let steep : Bool := decide ((x2 - x1).natAbs < (y2 - y1).natAbs)
  let a1 := if steep then y1 else x1
  let b1 := if steep then x1 else y1
  let a2 := if steep then y2 else x2
  let b2 := if steep then x2 else y2
  if a2 < a1 then wuFrom steep a2 b2 a1 b1 else wuFrom steep a1 b1 a2 b2

/-- A pixel in the foreground blended over the background at a weight: `plotw` of R225, `plota` of R228. -/
def plotPixel (s : State) (p : Plot) : List Event := pixel s (s.blended p.a) p.x p.y

/-- `wuLine` (R225). -/
def wuLine (s : State) (x1 y1 x2 y2 : Int) : List Event := (wuPlots x1 y1 x2 y2).flatMap (plotPixel s)

/-! ### Integer square root -/

/-- Digit by digit: `r` with the bits below `2 ^ k` still to be found. -/
def isqrtLoop (n : Nat) : Nat → Nat → Nat
  | 0, r => r
  | k + 1, r => if (r + 2 ^ k) * (r + 2 ^ k) ≤ n then isqrtLoop n k (r + 2 ^ k) else isqrtLoop n k r

/-- `isqrt` (00_scope.md R14): the largest integer whose square is at most `n`. -/
def isqrt (n : Nat) : Nat := isqrtLoop n (n.log2 / 2 + 1) 0

/-! ### Thick line -/

/-- What one thick line keeps fixed (R228): the far end, the directions, the extents, `ED` and `WD2`. -/
structure ThickLine where
  x1 : Int
  y1 : Int
  sx : Int
  sy : Int
  dx : Int
  dy : Int
  ed : Int
  wd2 : Int
deriving DecidableEq, Repr

/-- `cov` (R227), the coverage of an error term `e >= 0`. -/
def thickCov (t : ThickLine) (e : Int) : Int :=
  let num := 512 * e - t.ed * t.wd2 + 2 * t.ed
  if num ≤ 0 then 255 else 255 - min 255 ((255 * num) / (2 * t.ed))

/-- The side pixels of an x step (R228), from `(x0, y2)` toward `sy`. -/
def thickSideX (t : ThickLine) (x0 : Int) : Nat → Int → Int → List Plot
  | 0, _, _ => []
  | fuel + 1, y2, e2 =>
    if 512 * e2 < t.ed * t.wd2 ∧ (t.y1 ≠ y2 ∨ t.dy < t.dx) then
      ⟨x0, y2 + t.sy, thickCov t e2.natAbs⟩ :: thickSideX t x0 fuel (y2 + t.sy) (e2 + t.dx)
    else []

/-- The side pixels of a y step (R228), from `(x2, y0)` toward `sx`. -/
def thickSideY (t : ThickLine) (y0 : Int) : Nat → Int → Int → List Plot
  | 0, _, _ => []
  | fuel + 1, x2, e2 =>
    if 512 * e2 < t.ed * t.wd2 ∧ (t.x1 ≠ x2 ∨ t.dx < t.dy) then
      ⟨x2 + t.sx, y0, thickCov t e2.natAbs⟩ :: thickSideY t y0 fuel (x2 + t.sx) (e2 + t.dy)
    else []

/-- Passes that no side walk of the line exceeds: it ends at the far end of its axis, or the error term has
grown past the half width (R228). -/
def thickSideFuel (t : ThickLine) : Nat := (t.dx + t.dy + t.wd2 + 3).toNat

/-- The walk of `thickLine` (R228). Both exits are tested only inside their own step, and both steps of a pass
use the error term, the column and the row of its start. -/
def thickLoop (t : ThickLine) : Nat → Int → Int → Int → List Plot
  | 0, _, _, _ => []
  | fuel + 1, x0, y0, err =>
    let here : Plot := ⟨x0, y0, thickCov t (err - t.dx + t.dy).natAbs⟩
    let stepX := -t.dx ≤ 2 * err
    let stepY := 2 * err ≤ t.dy
    let sideX := if stepX then thickSideX t x0 (thickSideFuel t) y0 (err + t.dy) else []
    if stepX ∧ x0 = t.x1 then here :: sideX
    else
      let sideY := if stepY then thickSideY t y0 (thickSideFuel t) x0 (t.dx - err) else []
      if stepY ∧ y0 = t.y1 then here :: (sideX ++ sideY)
      else
        here :: (sideX ++ sideY ++
          thickLoop t fuel (if stepX then x0 + t.sx else x0) (if stepY then y0 + t.sy else y0)
            (err - (if stepX then t.dy else 0) + (if stepY then t.dx else 0)))

/-- The plots of `thickLine` in order (R228); the walk makes at most `dx + dy + 1` passes (R229). -/
def thickPlots (x0 y0 x1 y1 : Int) (w : Nat) : List Plot :=
  let dx : Int := (x1 - x0).natAbs
  let dy : Int := (y1 - y0).natAbs
  let ed : Int := if dx + dy = 0 then 256 else isqrt ((dx * dx + dy * dy) * 65536).toNat
  let t : ThickLine :=
    ⟨x1, y1, if x0 < x1 then 1 else -1, if y0 < y1 then 1 else -1, dx, dy, ed, (w : Int) + 1⟩
  thickLoop t (dx + dy).toNat.succ x0 y0 (dx - dy)

/-- `thickLine` (R228). -/
def thickLine (s : State) (x0 y0 x1 y1 : Int) (w : Nat) : List Event :=
  (thickPlots x0 y0 x1 y1 w).flatMap (plotPixel s)

/-! ### The command -/

/-- The dispatch of DRAW_LINE (R220, R221). -/
def drawLineEvents (s : State) (x1 y1 x2 y2 : Int) : List Event :=
  if s.lineW = 1 ∧ y1 = y2 then hline s s.fg x1 y1 x2
  else if s.lineW = 1 ∧ x1 = x2 then vline s s.fg x1 y1 y2
  else if s.lineW = 1 ∧ s.aa = false then bresLine s x1 y1 x2 y2
  else if s.lineW = 1 then wuLine s x1 y1 x2 y2
  else thickLine s x1 y1 x2 y2 s.lineW

/-- DRAW_LINE (R220). -/
def execDrawLine (x1 y1 x2 y2 : Int) (s : State) : Host.Outcome State Fault Refusal :=
  drawing (fun t => t.paint (drawLineEvents s x1 y1 x2 y2)) s

end Sys2Proof.Machine
end

