-- ==== Sys2Proof/Machine/Round.lean ====
section
/-! DEFINITION. Circle, oval and rounded rectangles, aliased and antialiased (46_raster_round.md). A `while`
of the rule runs on fuel that its bound covers (assumption 9). -/

namespace Sys2Proof.Machine

/-! ### Shared pieces -/

/-- The loop of `midpoint` (R241). -/
def midpointLoop : Nat → Int → Int → Int → List (Int × Int)
  | 0, _, _, _ => []
  | fuel + 1, a, b, d =>
    if a ≤ b then
      (a, b) ::
        (if d < 0 then midpointLoop fuel (a + 1) b (d + 2 * a + 3)
         else midpointLoop fuel (a + 1) (b - 1) (d + 2 * (a - b) + 5))
    else []

/-- `midpoint` (R241): one octant of the midpoint circle of radius `r >= 0`; at most `r + 1` pairs. -/
def midpoint (r : Int) : List (Int × Int) := midpointLoop (r.toNat + 1) 0 r (1 - r)

/-- The centres of the four quarter arcs (R242). -/
structure Centres where
  x1 : Int
  y1 : Int
  x2 : Int
  y2 : Int
deriving DecidableEq, Repr

/-- `plot4` (R242): one offset in the four quadrants, top left, top right, bottom left, bottom right. -/
def plot4 (s : State) (c : Color) (k : Centres) (dx dy : Int) : List Event :=
  pixel s c (k.x1 - dx) (k.y1 - dy) ++ pixel s c (k.x2 + dx) (k.y1 - dy)
    ++ pixel s c (k.x1 - dx) (k.y2 + dy) ++ pixel s c (k.x2 + dx) (k.y2 + dy)

/-- The two stamps of each octant pair, `(a, b)` and `(b, a)` (R243, R250). -/
def stampOctants (s : State) (k : Centres) (pairs : List (Int × Int)) : List Event :=
  pairs.flatMap fun p => plot4 s s.fg k p.1 p.2 ++ plot4 s s.fg k p.2 p.1

/-! ### Oval, aliased -/

/-- The loop of `ovalDDA` (R247), `m = max rx ry`: the octant points `(h, i)` in order. -/
def ovalLoop (m : Int) : Nat → Int → Int → List (Int × Int)
  | 0, _, _ => []
  | fuel + 1, ix, iy =>
    let h := (ix + 32) / 64
    let i := (iy + 32) / 64
    (h, i) ::
      (if i ≤ h then []
       else
         let ix' := ix + iy / m
         ovalLoop m fuel ix' (iy - ix' / m))

/-- The octant points of `ovalDDA` (R247). While `ix < iy` their sum does not fall, so `ix` grows by 32 or more
a step and the walk ends within `2 * m + 1` steps. -/
def ovalOctant (m : Int) : List (Int × Int) := ovalLoop m (2 * m.toNat + 2) 0 (64 * m)

/-- The two stamps of one octant point of `ovalDDA`, the minor axis scaled by the ratio of the radii
(R247). -/
def ovalStamp (s : State) (k : Centres) (rx ry : Int) (p : Int × Int) : List Event :=
  if ry ≤ rx then
    plot4 s s.fg k p.1 ((p.2 * ry) / rx) ++ plot4 s s.fg k p.2 ((p.1 * ry) / rx)
  else
    plot4 s s.fg k ((p.1 * rx) / ry) p.2 ++ plot4 s s.fg k ((p.2 * rx) / ry) p.1

/-- `ovalDDA` (R247). -/
def ovalDDA (s : State) (k : Centres) (rx ry : Int) : List Event :=
  (ovalOctant (max rx ry)).flatMap (ovalStamp s k rx ry)

/-! ### Rounded rectangle, aliased -/

/-- The centres of a box with corner radii `rx`, `ry` (R245, R249, R257). -/
def boxCentres (b : Rect) (rx ry : Int) : Centres := ⟨b.x1 + rx, b.y1 + ry, b.x2 - rx, b.y2 - ry⟩

/-- The four straight edges, top, bottom, left, right (R250, R257). -/
def straightEdges (s : State) (b : Rect) (k : Centres) : List Event :=
  hline s s.fg k.x1 b.y1 k.x2 ++ hline s s.fg k.x1 b.y2 k.x2 ++ vline s s.fg b.x1 k.y1 k.y2
    ++ vline s s.fg b.x2 k.y1 k.y2

/-- `roundOutline` (R250). -/
def roundOutline (s : State) (b : Rect) (r : Int) : List Event :=
  let k := boxCentres b r r
  straightEdges s b k ++ stampOctants s k (midpoint r)

/-- The two spans of one corner offset of `roundFill` (R251). -/
def cornerSpans (s : State) (k : Centres) (dx dy : Int) : List Event :=
  hline s s.fg (k.x1 - dx) (k.y1 - dy) (k.x2 + dx) ++ hline s s.fg (k.x1 - dx) (k.y2 + dy) (k.x2 + dx)

/-- `roundFill` (R251). -/
def roundFill (s : State) (b : Rect) (r : Int) : List Event :=
  let k := boxCentres b r r
  fill s s.fg b.x1 k.y1 b.x2 k.y2
    ++ (midpoint r).flatMap fun p => cornerSpans s k p.1 p.2 ++ cornerSpans s k p.2 p.1

/-! ### The coverage path -/

/-- One step `(loop, p, q, sec, wgt)` of `aaSteps` (R255); `first` says that it is of loop 1. -/
structure AaStep where
  first : Bool
  p : Int
  q : Int
  sec : Int
  wgt : Int
deriving DecidableEq, Repr

/-- The running values of `aaSteps` (R255). -/
structure AaVars where
  xp : Int
  yp : Int
  d : Int
  s : Int
  t : Int
deriving DecidableEq, Repr

/-- The weight `cp = |d|/|s or t|` in units of 1/255 (R255), `v` the divisor. -/
def aaWeight (d v : Int) : Int := if v = 0 then 255 else min 255 ((255 * (d.natAbs : Int)) / (v.natAbs : Int))

/-- One pass of loop 1 of `aaSteps` (R255): the step it yields and the values after it. -/
def aaPass1 (a2 b2 : Int) (v : AaVars) : AaStep × AaVars :=
  let xp := v.xp - 1
  let d := v.d + v.t - b2
  let t := v.t - 2 * b2
  let dn := d - v.s - a2
  let sn := v.s + 2 * a2
  if 0 ≤ d then (⟨true, xp, v.yp, v.yp - 1, aaWeight d v.s⟩, ⟨xp, v.yp, d, v.s, t⟩)
  else if 0 < dn then
    if 0 ≤ 2 * d - v.s - a2 then (⟨true, xp, v.yp, v.yp + 1, aaWeight d v.s⟩, ⟨xp, v.yp, d, v.s, t⟩)
    else (⟨true, xp, v.yp + 1, v.yp, aaWeight dn sn⟩, ⟨xp, v.yp + 1, dn, sn, t⟩)
  else (⟨true, xp, v.yp + 1, v.yp + 2, aaWeight dn sn⟩, ⟨xp, v.yp + 1, dn, sn, t⟩)

/-- One pass of loop 2 of `aaSteps` (R255). -/
def aaPass2 (a2 b2 : Int) (v : AaVars) : AaStep × AaVars :=
  let yp := v.yp + 1
  let d := v.d - v.s - a2
  let s := v.s + 2 * a2
  let dn := d + v.t - b2
  let tn := v.t - 2 * b2
  if d ≤ 0 then (⟨false, v.xp, yp, v.xp + 1, aaWeight d v.t⟩, ⟨v.xp, yp, d, s, v.t⟩)
  else if dn < 0 then
    if 2 * d + v.t - b2 ≤ 0 then (⟨false, v.xp, yp, v.xp - 1, aaWeight d v.t⟩, ⟨v.xp, yp, d, s, v.t⟩)
    else (⟨false, v.xp - 1, yp, v.xp, aaWeight dn tn⟩, ⟨v.xp - 1, yp, dn, s, tn⟩)
  else (⟨false, v.xp - 1, yp, v.xp - 2, aaWeight dn tn⟩, ⟨v.xp - 1, yp, dn, s, tn⟩)

/-- `n` passes of loop 1 (R255). -/
def aaLoop1 (a2 b2 : Int) : Nat → AaVars → List AaStep × AaVars
  | 0, v => ([], v)
  | n + 1, v =>
    let r := aaPass1 a2 b2 v
    let rest := aaLoop1 a2 b2 n r.2
    (r.1 :: rest.1, rest.2)

/-- Loop 2 (R255), while `yp < 0`; each pass raises `yp` by one. -/
def aaLoop2 (a2 b2 : Int) : Nat → AaVars → List AaStep
  | 0, _ => []
  | fuel + 1, v =>
    if v.yp < 0 then
      let r := aaPass2 a2 b2 v
      r.1 :: aaLoop2 a2 b2 fuel r.2
    else []

/-- `aaSteps` (R255). -/
def aaSteps (rx ry : Int) : List AaStep :=
  let a2 := rx * rx
  let b2 := ry * ry
  let len : Int := isqrt ((a2 + b2) * 65536).toNat
  let dxt := min (rx - 1) ((256 * a2) / len)
  let r := aaLoop1 a2 b2 dxt.toNat ⟨0, -ry, 0, -2 * a2 * ry, 0⟩
  r.1 ++ aaLoop2 a2 b2 (ry.toNat + 1) r.2

/-- `force` (R259): in border mode the outer pixel of a pair gets full weight. The pair is (secondary weight,
primary weight). -/
def aaForce (st : AaStep) : Int × Int :=
  let iw := 255 - st.wgt
  let ref := if st.first then st.q else st.p
  if st.sec < ref then (255, iw) else if ref < st.sec then (st.wgt, 255) else (st.wgt, iw)

/-- `pl4` (R257): one offset into all four corners, unless it is outside the quarter box. -/
def aaPlot4 (s : State) (k : Centres) (rx ry : Int) (c : Color) (col row : Int) : List Event :=
  if col < -rx ∨ 0 < col ∨ row < -ry ∨ 0 < row then []
  else
    pixel s c (k.x1 + col) (k.y1 + row) ++ pixel s c (k.x2 - col) (k.y1 + row)
      ++ pixel s c (k.x1 + col) (k.y2 - row) ++ pixel s c (k.x2 - col) (k.y2 - row)

/-- The edge pass for one step (R257, R258). -/
def aaEdge (s : State) (k : Centres) (rx ry : Int) (border : Bool) (st : AaStep) : List Event :=
  let w := if border then aaForce st else (st.wgt, 255 - st.wgt)
  aaPlot4 s k rx ry (s.blended w.2) st.p st.q
    ++ (if st.first then aaPlot4 s k rx ry (s.blended w.1) st.p st.sec
        else aaPlot4 s k rx ry (s.blended w.1) st.sec st.q)

/-- The interior spans of one step in fill mode (R260). -/
def aaInterior (s : State) (k : Centres) (st : AaStep) : List Event :=
  if st.first then
    let top := max st.q st.sec
    if top ≤ -1 then
      vline s s.fg (k.x1 + st.p) (k.y1 + top) (k.y1 - 1) ++ vline s s.fg (k.x2 - st.p) (k.y1 + top) (k.y1 - 1)
        ++ vline s s.fg (k.x1 + st.p) (k.y2 + 1) (k.y2 - top) ++ vline s s.fg (k.x2 - st.p) (k.y2 + 1) (k.y2 - top)
    else []
  else
    let left := max st.p st.sec
    if st.q ≤ -1 ∧ left ≤ -1 then
      hline s s.fg (k.x1 + left) (k.y1 + st.q) (k.x1 - 1) ++ hline s s.fg (k.x2 + 1) (k.y1 + st.q) (k.x2 - left)
        ++ hline s s.fg (k.x1 + left) (k.y2 - st.q) (k.x1 - 1) ++ hline s s.fg (k.x2 + 1) (k.y2 - st.q) (k.x2 - left)
    else []

/-- `aaRound` (R257). -/
def aaRound (s : State) (b : Rect) (rx ry : Int) (border : Bool) : List Event :=
  let k := boxCentres b rx ry
  let steps := aaSteps rx ry
  (if border then straightEdges s b k else [])
    ++ steps.flatMap (aaEdge s k rx ry border)
    ++ (if border then []
        else steps.flatMap (aaInterior s k) ++ fill s s.fg k.x1 b.y1 k.x2 b.y2 ++ fill s s.fg b.x1 k.y1 b.x2 k.y2)

/-! ### Commands -/

/-- The events of DRAW_CIRCLE (R243, R256). -/
def circleEvents (s : State) (xc yc r : Int) : List Event :=
  if r < 0 then []
  else if s.aa = true ∧ 1 ≤ r then aaRound s ⟨xc - r, yc - r, xc + r, yc + r⟩ r r true
  else stampOctants s ⟨xc, yc, xc, yc⟩ (midpoint r)

/-- The box of `w` by `h` pixels with top left `(x, y)` (R245, R249). -/
def sizedBox (x y w h : Int) : Rect := ⟨x, y, x + w - 1, y + h - 1⟩

/-- The events of DRAW_OVAL (R245, R246, R256). -/
def ovalEvents (s : State) (x y w h : Int) : List Event :=
  let rx := (w - 1) / 2
  let ry := (h - 1) / 2
  let b := sizedBox x y w h
  if w ≤ 0 ∨ h ≤ 0 then []
  else if rx = 0 ∨ ry = 0 then rectOutline s s.fg x y w h
  else if s.aa = true then aaRound s b rx ry true
  else ovalDDA s (boxCentres b rx ry) rx ry

/-- The corner radius after the reduction of R249. -/
def clampRadius (w h r : Int) : Int := min r (min ((w - 1) / 2) ((h - 1) / 2))

/-- The events of DRAW_ROUND_RECT (R249, R252, R256). -/
def roundRectEvents (s : State) (x y w h r : Int) : List Event :=
  let rc := clampRadius w h r
  let b := sizedBox x y w h
  if w ≤ 0 ∨ h ≤ 0 ∨ r < 0 then []
  else if rc = 0 then rectOutline s s.fg x y w h
  else if s.aa = true then aaRound s b rc rc true
  else roundOutline s b rc

/-- The events of FILL_ROUND_RECT (R249, R253, R256). -/
def fillRoundRectEvents (s : State) (x y w h r : Int) : List Event :=
  let rc := clampRadius w h r
  let b := sizedBox x y w h
  if w ≤ 0 ∨ h ≤ 0 ∨ r < 0 then []
  else if rc = 0 then fill s s.fg b.x1 b.y1 b.x2 b.y2
  else if s.aa = true then aaRound s b rc rc false
  else roundFill s b rc

/-- DRAW_CIRCLE (R243). -/
def execDrawCircle (xc yc r : Int) (s : State) : Host.Outcome State Fault Refusal :=
  drawing (fun t => t.paint (circleEvents s xc yc r)) s

/-- DRAW_OVAL (R246). -/
def execDrawOval (x y w h : Int) (s : State) : Host.Outcome State Fault Refusal :=
  drawing (fun t => t.paint (ovalEvents s x y w h)) s

/-- DRAW_ROUND_RECT (R252). -/
def execDrawRoundRect (x y w h r : Int) (s : State) : Host.Outcome State Fault Refusal :=
  drawing (fun t => t.paint (roundRectEvents s x y w h r)) s

/-- FILL_ROUND_RECT (R253). -/
def execFillRoundRect (x y w h r : Int) (s : State) : Host.Outcome State Fault Refusal :=
  drawing (fun t => t.paint (fillRoundRectEvents s x y w h r)) s

end Sys2Proof.Machine
end

