-- ==== Sys2Proof/Machine/Dispatch.lean ====
section
/-! DEFINITION. Each command's meaning (30_encoding.md R100), one arm for each constructor of Instr. -/

namespace Sys2Proof.Machine

def exec (i : Instr) (s : State) : Host.Outcome State Fault Refusal :=
  match i with
  | .nop => Sys2Proof.Machine.execNop s
  | .setFgRgb r g b => Sys2Proof.Machine.execSetFgRgb r g b s
  | .setBgRgb r g b => Sys2Proof.Machine.execSetBgRgb r g b s
  | .setFgPacked p => Sys2Proof.Machine.execSetFgPacked p s
  | .setBgPacked p => Sys2Proof.Machine.execSetBgPacked p s
  | .setLineWidth width => Sys2Proof.Machine.execSetLineWidth width s
  | .setAntialias on => Sys2Proof.Machine.execSetAntialias on s
  | .setOrientation o => Sys2Proof.Machine.execSetOrientation o s
  | .setOrigin relative => Sys2Proof.Machine.execSetOrigin relative s
  | .scroll dy => Sys2Proof.Machine.execScroll dy s
  | .setFont base size => Sys2Proof.Machine.execSetFont base size s
  | .setTextWrap wrap wrapscroll left right bottom gap => Sys2Proof.Machine.execSetTextWrap wrap wrapscroll left right bottom gap s
  | .clearErr => Sys2Proof.Machine.execClearErr s
  | .drawPixel x y => Sys2Proof.Machine.execDrawPixel x y s
  | .fillRect x y w h => Sys2Proof.Machine.execFillRect x y w h s
  | .hline x1 y x2 => Sys2Proof.Machine.execHline x1 y x2 s
  | .vline x y1 y2 => Sys2Proof.Machine.execVline x y1 y2 s
  | .drawRect x y w h => Sys2Proof.Machine.execDrawRect x y w h s
  | .drawLine x1 y1 x2 y2 => Sys2Proof.Machine.execDrawLine x1 y1 x2 y2 s
  | .drawCircle xc yc r => Sys2Proof.Machine.execDrawCircle xc yc r s
  | .drawOval x y w h => Sys2Proof.Machine.execDrawOval x y w h s
  | .drawRoundRect x y w h r => Sys2Proof.Machine.execDrawRoundRect x y w h r s
  | .fillRoundRect x y w h r => Sys2Proof.Machine.execFillRoundRect x y w h r s
  | .drawText erase haskern x y text n kern => Sys2Proof.Machine.execDrawText erase haskern x y text n kern s
  | .drawImage x y base size => Sys2Proof.Machine.execDrawImage x y base size s
  | .measureText haskern text n kern => Sys2Proof.Machine.execMeasureText haskern text n kern s
  | .brOpen base size => Sys2Proof.Machine.execBrOpen base size s
  | .brBit => Sys2Proof.Machine.execBrBit s
  | .brBits n => Sys2Proof.Machine.execBrBits n s
  | .brNum => Sys2Proof.Machine.execBrNum s
  | .blendA tofg alpha => Sys2Proof.Machine.execBlendA tofg alpha s
  | .blendO opacity => Sys2Proof.Machine.execBlendO opacity s
  | .xformClip physical x1 y1 x2 y2 => Sys2Proof.Machine.execXformClip physical x1 y1 x2 y2 s

end Sys2Proof.Machine
end

