-- ==== Sys2Proof/Machine/Step.lean ====
section
/-! DEFINITION. One step of the machine: one whole command (70_reset_and_hazards.md R372), taken from the
command port in the order of arrival (R367). -/

namespace Sys2Proof.Machine

/-- The engine takes the next packet, runs the command it decodes to, or answers a reserved opcode with
ERR_ILLEGAL_CMD (60_exceptions.md R345), and settles BUSY. With no packet in the port it waits (R360). -/
def step (s : State) : Host.Outcome State Fault Refusal :=
  match s.queue with
  | [] => .next s.settleBusy
  | p :: rest =>
    match decode p with
    | .ok i => settle (exec i (s.takePacket rest))
    | .error _ => settle (illegalCommand (s.takePacket rest))

/-- `s` with the packet of an opcode-table row at the head of the command port, where the engine takes its next
command, in place of the packet that stood there (assumption 6). -/
def State.withFetchWord (s : State) (nbits w : Nat) : State :=
  { s with queue := tablePacket nbits w :: s.queue.tail }

end Sys2Proof.Machine
end

