-- ==== Sys2Proof/Machine/Asm.lean ====
section
/-! DEFINITION. The assembler syntax of 30_encoding.md R104: a line of text as a command, operands in the order
of R100. What R104 leaves open (spaces, the case of hexadecimal letters, leading zeros, lines it does not
describe) is assumption 14. The packet of the command is `encode`'s. -/

namespace Sys2Proof.Machine

/-- The value of `c` among `count` consecutive digit characters, of which `first` is worth `base`. -/
def digitIn (first : Char) (count base : Nat) (c : Char) : Option Nat :=
  ((List.range count).find? fun k => c.toNat == first.toNat + k).map fun k => base + k

/-- A decimal digit (R104). -/
def digitValue : Char → Option Nat := digitIn '0' 10 0

/-- A hexadecimal digit (R104). The rule says nothing of the case of its letters: both are taken
(DESIGN CHOICE, assumption 14). -/
def hexValue (c : Char) : Option Nat := (digitValue c).or ((digitIn 'A' 6 10 c).or (digitIn 'a' 6 10 c))

/-- The digits of a number in base `b` after those that made `v`. -/
def digitsFrom (digit : Char → Option Nat) (b v : Nat) : List Char → Option Nat
  | [] => some v
  | c :: cs => (digit c).bind fun k => digitsFrom digit b (b * v + k) cs

/-- A number of at least one digit; any further 0 may lead it (DESIGN CHOICE, assumption 14). -/
def parseDigits (digit : Char → Option Nat) (b : Nat) (cs : List Char) : Option Nat :=
  if cs = [] then none else digitsFrom digit b 0 cs

/-- An integer: decimal with an optional leading `-`, or hexadecimal with the prefix `0x` (R104). No space may
stand inside it (DESIGN CHOICE, assumption 14). -/
def parseInteger : List Char → Option Int
  | '0' :: 'x' :: cs => (parseDigits hexValue 16 cs).map Int.ofNat
  | '-' :: cs => (parseDigits digitValue 10 cs).map fun n => -(n : Int)
  | cs => (parseDigits digitValue 10 cs).map Int.ofNat

/-- The pieces of a text between the characters `sep`. -/
def splitAt (sep : Char) : List Char → List (List Char)
  | [] => [[]]
  | c :: cs =>
    match splitAt sep cs with
    | [] => [[c]]
    | p :: ps => if c = sep then [] :: p :: ps else (c :: p) :: ps

/-- A text without the spaces before it and after it. -/
def trimSpaces (cs : List Char) : List Char :=
  ((cs.dropWhile (· = ' ')).reverse.dropWhile (· = ' ')).reverse

/-- The texts of the operands of a line: none for an empty text, else the pieces between commas, the spaces before
and after a piece dropped. R104 says nothing of such spaces (DESIGN CHOICE, assumption 14). -/
def parseOperands (cs : List Char) : List (List Char) :=
  if trimSpaces cs = [] then [] else (splitAt ',' cs).map trimSpaces

/-- A flag operand, "written `0` or `1`" (R104). Any other spelling of the two values, `0x1` or `01`, is no flag
(DESIGN CHOICE, assumption 14). -/
def asFlag (cs : List Char) : Option Bool := if cs = ['0'] then some false else if cs = ['1'] then some true else none

/-- An integer operand that its field can carry. -/
def integerThat (fits : Int → Bool) (cs : List Char) : Option Int := (parseInteger cs).filter fits

/-- An operand carried as `s16` (R96). -/
def asS16 (cs : List Char) : Option Int := integerThat fitsS16 cs

/-- An operand carried as `u16` (R98). -/
def asU16 (cs : List Char) : Option Nat := (integerThat (fun v => decide (0 ≤ v) && fitsU16 v.toNat) cs).map Int.toNat

/-- An operand carried as `u32`, written as one integer (R104). -/
def asU32 (cs : List Char) : Option Nat := (integerThat (fun v => decide (0 ≤ v) && fitsU32 v.toNat) cs).map Int.toNat

/-- A colour channel (R98). -/
def asChannel (cs : List Char) : Option Byte :=
  (integerThat (fun v => decide (0 ≤ v) && decide (v < 256)) cs).map (BitVec.ofInt 8)

/-- The command of a mnemonic and the texts of its operands in assembler order (R100). -/
def commandOf (mnemonic : String) (ops : List (List Char)) : Option Instr :=
  match mnemonic, ops with
  | "NOP", [] => some .nop
  | "SET_FG_RGB", [r, g, b] => do return .setFgRgb (← asChannel r) (← asChannel g) (← asChannel b)
  | "SET_BG_RGB", [r, g, b] => do return .setBgRgb (← asChannel r) (← asChannel g) (← asChannel b)
  | "SET_FG_PACKED", [p] => do return .setFgPacked (BitVec.ofNat 16 (← asU16 p))
  | "SET_BG_PACKED", [p] => do return .setBgPacked (BitVec.ofNat 16 (← asU16 p))
  | "SET_LINE_WIDTH", [w] => do return .setLineWidth (← asU16 w)
  | "SET_ANTIALIAS", [on] => do return .setAntialias (← asFlag on)
  | "SET_ORIENTATION", [o] => do return .setOrientation (← asU16 o)
  | "SET_ORIGIN", [f] => do return .setOrigin (← asFlag f)
  | "SCROLL", [dy] => do return .scroll (← asS16 dy)
  | "SET_FONT", [base, size] => do return .setFont (← asU32 base) (← asU32 size)
  | "SET_TEXT_WRAP", [w, ws, l, r, b, g] => do
    return .setTextWrap (← asFlag w) (← asFlag ws) (← asS16 l) (← asS16 r) (← asS16 b) (← asS16 g)
  | "CLEAR_ERR", [] => some .clearErr
  | "DRAW_PIXEL", [x, y] => do return .drawPixel (← asS16 x) (← asS16 y)
  | "FILL_RECT", [x, y, w, h] => do return .fillRect (← asS16 x) (← asS16 y) (← asS16 w) (← asS16 h)
  | "HLINE", [x1, y, x2] => do return .hline (← asS16 x1) (← asS16 y) (← asS16 x2)
  | "VLINE", [x, y1, y2] => do return .vline (← asS16 x) (← asS16 y1) (← asS16 y2)
  | "DRAW_RECT", [x, y, w, h] => do return .drawRect (← asS16 x) (← asS16 y) (← asS16 w) (← asS16 h)
  | "DRAW_LINE", [x1, y1, x2, y2] => do return .drawLine (← asS16 x1) (← asS16 y1) (← asS16 x2) (← asS16 y2)
  | "DRAW_CIRCLE", [xc, yc, r] => do return .drawCircle (← asS16 xc) (← asS16 yc) (← asS16 r)
  | "DRAW_OVAL", [x, y, w, h] => do return .drawOval (← asS16 x) (← asS16 y) (← asS16 w) (← asS16 h)
  | "DRAW_ROUND_RECT", [x, y, w, h, r] => do
    return .drawRoundRect (← asS16 x) (← asS16 y) (← asS16 w) (← asS16 h) (← asS16 r)
  | "FILL_ROUND_RECT", [x, y, w, h, r] => do
    return .fillRoundRect (← asS16 x) (← asS16 y) (← asS16 w) (← asS16 h) (← asS16 r)
  | "DRAW_TEXT", [e, k, x, y, text, n, kern] => do
    return .drawText (← asFlag e) (← asFlag k) (← asS16 x) (← asS16 y) (← asU32 text) (← asU16 n) (← asU32 kern)
  | "DRAW_IMAGE", [x, y, base, size] => do
    return .drawImage (← asS16 x) (← asS16 y) (← asU32 base) (← asU32 size)
  | "MEASURE_TEXT", [k, text, n, kern] => do
    return .measureText (← asFlag k) (← asU32 text) (← asU16 n) (← asU32 kern)
  | "BR_OPEN", [base, size] => do return .brOpen (← asU32 base) (← asU32 size)
  | "BR_BIT", [] => some .brBit
  | "BR_BITS", [n] => do return .brBits (← asU16 n)
  | "BR_NUM", [] => some .brNum
  | "BLEND_A", [f, a] => do return .blendA (← asFlag f) (← asS16 a)
  | "BLEND_O", [o] => do return .blendO (← asU16 o)
  | "XFORM_CLIP", [f, x1, y1, x2, y2] => do
    return .xformClip (← asFlag f) (← asS16 x1) (← asS16 y1) (← asS16 x2) (← asS16 y2)
  | _, _ => none

/-- One line of a program: the mnemonic in upper case, a space, the operands separated by commas (R104). A line that
the rule does not describe is no command (DESIGN CHOICE, assumption 14). -/
def assembleLine (line : String) : Option Instr :=
  let cs := line.toList
  commandOf (String.ofList (cs.takeWhile (· ≠ ' '))) (parseOperands (cs.dropWhile (· ≠ ' ')))

end Sys2Proof.Machine
end

