-- ==== Sys2Proof/Machine/HostPort.lean ====
section
/-! DEFINITION. What the host can do to the block between two steps (10_state.md R20): read the register port
(R40, R41), write the command port (70_reset_and_hazards.md R367), write asset memory (20_memory.md R82) and
reset the block (R360). None of it is part of a step. -/

namespace Sys2Proof.Machine

/-- The register map of 10_state.md R40. An index from 0x28 reads 0 (R41). -/
def State.readRegister (s : State) (index : Byte) : Half :=
  match index.toNat with
  | 0x00 => s.par.idValue
  | 0x01 => statusWord s
  | 0x02 => s.lastErr.setWidth 16
  | 0x03 => s.errSticky
  | 0x04 => modeWord s
  | 0x05 => BitVec.ofNat 16 (s.lineW % 256)
  | 0x06 => BitVec.ofNat 16 s.scroll
  | 0x07 => BitVec.ofNat 16 s.par.devW
  | 0x08 => BitVec.ofNat 16 s.par.devH
  | 0x09 => BitVec.ofInt 16 s.logW
  | 0x0A => BitVec.ofInt 16 s.logH
  | 0x0B => s.fg.p
  | 0x0C => s.fg.r ++ s.fg.g
  | 0x0D => s.fg.b.setWidth 16
  | 0x0E => s.bg.p
  | 0x0F => s.bg.r ++ s.bg.g
  | 0x10 => s.bg.b.setWidth 16
  | 0x11 => s.fontBase.extractLsb' 0 16
  | 0x12 => s.fontBase.extractLsb' 16 16
  | 0x13 => s.fontSize.extractLsb' 0 16
  | 0x14 => s.fontSize.extractLsb' 16 16
  | 0x15 => s.fontType.setWidth 16
  | 0x16 => s.fontLh.setWidth 16
  | 0x17 => s.fontBl.setWidth 16
  | 0x18 => s.marginL
  | 0x19 => s.marginR
  | 0x1A => s.marginB
  | 0x1B => s.lineGap
  | 0x1C => s.caretX
  | 0x1D => s.caretY
  | 0x1E => s.res.extractLsb' 0 16
  | 0x1F => s.res.extractLsb' 16 16
  | 0x20 => s.boundX1
  | 0x21 => s.boundY1
  | 0x22 => s.boundX2
  | 0x23 => s.boundY2
  | 0x24 => BitVec.ofNat 16 s.boundVis.toNat
  | 0x25 => s.brPos.extractLsb' 0 16
  | 0x26 => s.brPos.extractLsb' 16 16
  | 0x27 => BitVec.ofNat 16 s.nest
  | _ => 0#16

/-- A read at the register port. While BUSY is 1 no register but STATUS bit 0 reads as anything in particular
(70_reset_and_hazards.md R366): such a read is outside the model's domain (93 I6) and gives no value. A host that wants
a result writes its command, reads STATUS bit 0 (`portBusy`) until it is 0, and then reads here (R366). -/
def State.portRead (s : State) (index : Byte) : Option Half := if s.busy then none else some (s.readRegister index)

/-- STATUS bit 0, which "reads correctly at all times" (R366). -/
def State.portBusy (s : State) : Bool := s.busy

/-- The host writes a packet. BUSY is 1 from the write on: an idle engine takes the packet at once, as R366's host
needs, whose first read of STATUS must not see 0 before its command ran (10_state.md R36; DEDUCED, assumption 18).
The first packet of `queue` is the one the engine has taken, so the port buffers the others; when they are
CMD_FIFO_DEPTH it is full and accepts nothing (R367). -/
def State.hostWriteCommand (s : State) (p : Packet) : Option State :=
  if s.queue.tail.length < s.par.cmdFifoDepth then some { s with queue := s.queue ++ [p], busy := true } else none

/-- The host writes a byte of asset memory; only while BUSY is 0 (20_memory.md R82), and only at an address that
exists (R61). -/
def State.hostWriteAsset (s : State) (a : Nat) (v : Byte) : Option State :=
  if s.busy = false ∧ a < s.par.amemSize then some { s with amem := memInsert a v s.amem } else none

/-- Reset (R360): every persistent field at its value of 10_state.md R46; asset memory keeps its contents (R362)
and the parameters are not state (R363). A state stands between two commands, so this is never a reset in
mid-command (R361). -/
def State.hostReset (s : State) : State := { State.reset with par := s.par, amem := s.amem }

end Sys2Proof.Machine
end

