-- ==== Sys2Proof/Machine/Sink.lean ====
section
/-! DEFINITION. The reference sink of 20_memory.md R76: a model of the collaborator that consumes the events,
"not part of the block", kept so that a claim can say what a program draws (R77). -/

namespace Sys2Proof.Machine

/-- A pixel write to the framebuffer: column, row, colour. -/
structure PixelWrite where
  x : Nat
  y : Nat
  c : Half
deriving DecidableEq, Repr

/-- The reference sink (R76). The framebuffer is its initial colour and the writes since, the newest first. -/
structure Sink where
  init : Half
  writes : List PixelWrite
  wx1 : Nat
  wy1 : Nat
  wx2 : Nat
  wy2 : Nat
  cx : Nat
  cy : Nat
  held : Bool
  drvScroll : Nat
  drvOrient : Orientation
deriving DecidableEq, Repr

/-- A sink whose every pixel is `init`, "a caller-chosen initial value", nothing held, scroll and orientation 0
(R76). R76 gives window and cursor no initial value: they start at 0 here (DESIGN CHOICE, assumption 17). -/
def sinkStart (init : Half) : Sink := ⟨init, [], 0, 0, 0, 0, 0, 0, false, 0, .portrait⟩

/-- The colour of a pixel among the writes, newest first, or the initial colour. -/
def lookupWrite (init : Half) (x y : Nat) : List PixelWrite → Half
  | [] => init
  | w :: ws => if w.x = x ∧ w.y = y then w.c else lookupWrite init x y ws

/-- `FB[y][x]` (R76). -/
def Sink.pixelAt (k : Sink) (x y : Nat) : Half := lookupWrite k.init x y k.writes

/-- The step of PIX (R76): the pixel at the cursor is written and the cursor moves on in row-major order. -/
def Sink.putPixel (k : Sink) (c : Half) : Sink :=
  { k with
    writes := ⟨k.cx, k.cy, c⟩ :: k.writes
    cx := if k.wx2 < k.cx + 1 then k.wx1 else k.cx + 1
    cy := if k.wx2 < k.cx + 1 then (if k.wy2 < k.cy + 1 then k.wy1 else k.cy + 1)
          else (if k.wy2 < k.cy then k.wy1 else k.cy) }

/-- `n` times the step of PIX (R76). -/
def Sink.putRun (c : Half) : Nat → Sink → Sink
  | 0, k => k
  | n + 1, k => Sink.putRun c n (k.putPixel c)

/-- The step of the sink on one event (R76). -/
def Sink.step (k : Sink) : Event → Sink
  | .acq => { k with held := true }
  | .rel => { k with held := false }
  | .region x1 y1 x2 y2 => { k with wx1 := x1, wy1 := y1, wx2 := x2, wy2 := y2, cx := x1, cy := y1 }
  | .pix c => k.putPixel c
  | .run c n => Sink.putRun c n k
  | .scrollCmd o => { k with drvScroll := o }
  | .orient o => { k with drvOrient := o }

/-- The sink after a sequence of events, in the order emitted (R79). -/
def Sink.consume (k : Sink) (evs : List Event) : Sink := evs.foldl Sink.step k

end Sys2Proof.Machine
end

