-- ==== Sys2Proof/Safety.lean ====
section
/-! DEFINITION. What counts as a safe run, in the terms the claims use: the invariants that hold between two
commands (10_state.md R47), the shape of the event stream (20_memory.md R70 to R73), and the fields of a packet
that its format names (30_encoding.md R99, R105). -/

namespace Sys2Proof.Machine

/-- The invariants of 10_state.md R47, with what else holds between two commands: legal parameters (R10), the
sticky bit 0 (R35), codes up to 15 (R341), BUSY 1 exactly while a packet is not yet executed (R36), a bit reader's size whose bit
count fits `u32` (R148), and asset memory in canonical form within its size (R61). -/
structure State.Inv (s : State) : Prop where
  params : s.par.wf = true
  scroll : s.scroll < s.par.devH
  lineW_pos : 1 ≤ s.lineW
  lineW_le : s.lineW ≤ 255
  fg_packed : s.fg.p = pack s.fg.r s.fg.g s.fg.b
  bg_packed : s.bg.p = pack s.bg.r s.bg.g s.bg.b
  nest : s.nest = 0
  font_slice : s.fontValid = true → s.fontBase.toNat + s.fontSize.toNat ≤ s.par.amemSize
  font_size : s.fontValid = true → 5 ≤ s.fontSize.toNat
  font_type : s.fontValid = true → s.fontType = s.par.fontTypeBitmask ∨ s.fontType = s.par.fontTypeAa
  reader_slice : s.brOpen = true → s.brBase.toNat + s.brSize.toNat ≤ s.par.amemSize
  reader_size : s.brOpen = true → s.brSize.toNat ≤ 0x1FFFFFFF
  sticky : s.errSticky.getLsbD 0 = false
  lastErr : s.lastErr.toNat ≤ 15
  busy : s.busy = !s.queue.isEmpty
  memory : s.amem.wf = true
  memory_range : ∀ c ∈ s.amem, c.1 < s.par.amemSize

/-- A drawing command's state after it completed with the events `evs` between ACQ and REL (20_memory.md R70),
entered with the nesting counter at 0. -/
def State.afterDrawing (s : State) (evs : List Event) : State :=
  { s with events := s.events ++ .acq :: (evs ++ [.rel]), lastErr := 0#8 }

/-- A command's state after it failed in phase 1 with code `e` (60_exceptions.md R342, R343). -/
def State.afterFailure (s : State) (e : ErrCode) : State :=
  { s with lastErr := BitVec.ofNat 8 (errNumber e), errSticky := s.errSticky ||| BitVec.twoPow 16 (errNumber e) }

/-- Where an event stream stands: who has the bus, and how many pixels of the declared window are still to
come (20_memory.md R70, R72). -/
structure StreamPos where
  held : Bool
  left : Nat
deriving DecidableEq, Repr

/-- The stream position after one event, or `none` where the event may not stand: a bracket opens only outside
one and closes only inside one with its window full (R70), a REGION lies on the device (R71) and comes only
when the window before it is full, PIX and RUN fill the window exactly (R72), offsets are in range (R66), and an
orientation event stands outside every bracket (40_config.md R127). -/
def streamStep (p : Params) (pos : StreamPos) : Event → Option StreamPos
  | .acq => if pos = ⟨false, 0⟩ then some ⟨true, 0⟩ else none
  | .rel => if pos = ⟨true, 0⟩ then some ⟨false, 0⟩ else none
  | .region x1 y1 x2 y2 =>
    if pos = ⟨true, 0⟩ ∧ x1 ≤ x2 ∧ x2 < p.devW ∧ y1 ≤ y2 ∧ y2 < p.devH then
      some ⟨true, (x2 - x1 + 1) * (y2 - y1 + 1)⟩
    else none
  | .pix _ => if pos.held = true ∧ 1 ≤ pos.left then some ⟨true, pos.left - 1⟩ else none
  | .run _ n => if pos.held = true ∧ 1 ≤ n ∧ n ≤ pos.left then some ⟨true, pos.left - n⟩ else none
  | .scrollCmd o => if pos.left = 0 ∧ o < p.devH then some pos else none
  | .orient _ => if pos = ⟨false, 0⟩ then some pos else none

/-- The stream position after a sequence of events. -/
def streamScan (p : Params) (pos : StreamPos) : List Event → Option StreamPos
  | [] => some pos
  | e :: es =>
    match streamStep p pos e with
    | none => none
    | some pos' => streamScan p pos' es

/-- A sequence of events that starts and ends with the bus free and every window full. -/
def streamOk (p : Params) (evs : List Event) : Bool := streamScan p ⟨false, 0⟩ evs = some ⟨false, 0⟩

/-- The header bits a command names: its opcode and its flag bits (30_encoding.md R105). -/
def headerMask (f0 f1 : Bool) : Half := BitVec.ofNat 16 (0x00FF + 256 * (f0.toNat + 2 * f1.toNat))

/-- A packet of 16-bit masks: the header's, a full word for each operand word from W1 to W`n`, and nothing
above. -/
def wordsMask (h : Half) (n : Nat) : Packet :=
  let full (k : Nat) : Half := if k ≤ n then 0xFFFF#16 else 0#16
  ⟨h, full 1, full 2, full 3, full 4, full 5, full 6, full 7⟩

/-- The bits of a packet that the format of a command names (30_encoding.md R99, R105): one for each bit that
has a meaning. -/
def namedBits : Instr → Packet
  | .nop => wordsMask (headerMask false false) 0
  | .setFgRgb .. => ⟨headerMask false false, 0xFF#16, 0xFF#16, 0xFF#16, 0, 0, 0, 0⟩
  | .setBgRgb .. => ⟨headerMask false false, 0xFF#16, 0xFF#16, 0xFF#16, 0, 0, 0, 0⟩
  | .setFgPacked .. => wordsMask (headerMask false false) 1
  | .setBgPacked .. => wordsMask (headerMask false false) 1
  | .setLineWidth .. => wordsMask (headerMask false false) 1
  | .setAntialias .. => wordsMask (headerMask true false) 0
  | .setOrientation .. => wordsMask (headerMask false false) 1
  | .setOrigin .. => wordsMask (headerMask true false) 0
  | .scroll .. => wordsMask (headerMask false false) 1
  | .setFont .. => wordsMask (headerMask false false) 4
  | .setTextWrap .. => wordsMask (headerMask true true) 4
  | .clearErr => wordsMask (headerMask false false) 0
  | .drawPixel .. => wordsMask (headerMask false false) 2
  | .fillRect .. => wordsMask (headerMask false false) 4
  | .hline .. => wordsMask (headerMask false false) 3
  | .vline .. => wordsMask (headerMask false false) 3
  | .drawRect .. => wordsMask (headerMask false false) 4
  | .drawLine .. => wordsMask (headerMask false false) 4
  | .drawCircle .. => wordsMask (headerMask false false) 3
  | .drawOval .. => wordsMask (headerMask false false) 4
  | .drawRoundRect .. => wordsMask (headerMask false false) 5
  | .fillRoundRect .. => wordsMask (headerMask false false) 5
  | .drawText .. => wordsMask (headerMask true true) 7
  | .drawImage .. => wordsMask (headerMask false false) 6
  | .measureText .. => ⟨headerMask false true, 0, 0, 0xFFFF#16, 0xFFFF#16, 0xFFFF#16, 0xFFFF#16, 0xFFFF#16⟩
  | .brOpen .. => wordsMask (headerMask false false) 4
  | .brBit => wordsMask (headerMask false false) 0
  | .brBits .. => wordsMask (headerMask false false) 1
  | .brNum => wordsMask (headerMask false false) 0
  | .blendA .. => wordsMask (headerMask true false) 1
  | .blendO .. => wordsMask (headerMask false false) 1
  | .xformClip .. => wordsMask (headerMask true false) 4

/-- A packet with the bits outside a mask cleared. -/
def packetAnd (p m : Packet) : Packet :=
  ⟨p.w0 &&& m.w0, p.w1 &&& m.w1, p.w2 &&& m.w2, p.w3 &&& m.w3, p.w4 &&& m.w4, p.w5 &&& m.w5, p.w6 &&& m.w6,
    p.w7 &&& m.w7⟩

/-- The code words of 41_bitreader.md R145: the bits, in stream order, of a number `2 .. 127`. -/
def numberCode (v : Nat) : List Bool :=
  let field (w base : Nat) : List Bool := (List.range w).map fun k => (v - base).testBit (w - 1 - k)
  if v < 4 then false :: field 1 2
  else if v < 8 then true :: false :: field 2 4
  else if v < 16 then true :: true :: false :: field 3 8
  else if v < 32 then true :: true :: true :: false :: field 4 16
  else if v < 64 then true :: true :: true :: true :: false :: field 5 32
  else true :: true :: true :: true :: true :: field 6 64

/-- Bit `k` of the stream of the unit-access reader's slice: the most significant bit of a byte is its first
(20_memory.md R68). -/
def State.streamBit (s : State) (k : Nat) : Bool :=
  (memRead s (s.brBase.toNat + k / 8)).getLsbD (7 - k % 8)

/-- The codes, `OK` excepted, that each command can end with, in the order its checks are made
(60_exceptions.md R341, R348). -/
def errorCodes : Instr → List Nat
  | .nop => []
  | .setFgRgb .. => []
  | .setBgRgb .. => []
  | .setFgPacked .. => []
  | .setBgPacked .. => []
  | .setLineWidth .. => [2]
  | .setAntialias .. => []
  | .setOrientation .. => [2]
  | .setOrigin .. => []
  | .scroll .. => []
  | .setFont .. => [3, 6, 4, 5]
  | .setTextWrap .. => []
  | .clearErr => []
  | .drawPixel .. => []
  | .fillRect .. => []
  | .hline .. => []
  | .vline .. => []
  | .drawRect .. => []
  | .drawLine .. => []
  | .drawCircle .. => []
  | .drawOval .. => []
  | .drawRoundRect .. => []
  | .fillRoundRect .. => []
  | .drawText .. => [7, 3, 8]
  | .drawImage .. => [3, 14, 9, 10, 12, 13, 11, 15]
  | .measureText .. => [7, 3, 8]
  | .brOpen .. => [3, 2]
  | .brBit => [2]
  | .brBits .. => [2]
  | .brNum => [2]
  | .blendA .. => []
  | .blendO .. => [2]
  | .xformClip .. => []

/-- The reserved opcodes (30_encoding.md R101). -/
def reservedOpcode (op : Nat) : Prop := (0x0D ≤ op ∧ op ≤ 0x0F) ∨ (0x1C ≤ op ∧ op ≤ 0x1F) ∨ 0x28 ≤ op

/-- A point of a rectangle with inclusive corners (00_scope.md R17). -/
def Rect.Holds (r : Rect) (x y : Int) : Prop := r.x1 ≤ x ∧ x ≤ r.x2 ∧ r.y1 ≤ y ∧ y ≤ r.y2

/-- A physical point that is on the device and in the scroll-visible band (43_bounds.md R183, R184). -/
def State.Visible (s : State) (px py : Int) : Prop :=
  0 ≤ px ∧ px < s.par.devW ∧ 0 ≤ py ∧ py < s.par.devH ∧ (scrollBand s).1 ≤ py ∧ py ≤ (scrollBand s).2

/-- `RL` of the glyph record at offset `p` (47_glyph.md R272). -/
def recordLength (s : State) (p : Nat) : Nat := fontHalf s (p + 2) % 2 ^ 15

/-- The offset of the record with index `j` of the glyph table, each record starting where the one before ends
(47_glyph.md R272). -/
def recordOffset (s : State) : Nat → Nat
  | 0 => 5
  | j + 1 => recordOffset s j + recordLength s (recordOffset s j)

/-- The record at offset `p` has a code, is long enough for its head and lies in the font (47_glyph.md R274). -/
def recordSound (s : State) (p : Nat) : Prop :=
  p + 8 ≤ s.fontSize.toNat ∧ fontHalf s p ≠ 0 ∧ 8 ≤ recordLength s p ∧ p + recordLength s p ≤ s.fontSize.toNat

/-- What DRAW_TEXT draws for character `i` with the caret at `(cx, cy)` (47_glyph.md R293): its glyph, or nothing
for a character absent from the font. -/
def charEvents (s : State) (t : TextArgs) (i : Nat) (cx cy : Int) : List Event :=
  match lookupGlyph s (charAt s t i) with
  | .found g => glyphEvents s (textColor s t) g cx cy
  | .absent => []
  | .trunc => []

/-- The events of image rows from the top, `rows` holding each row's pixels (48_image.md R319, R325). -/
def imageRows (s : State) (x y : Int) (rows : List (List Half)) : List Event :=
  (List.range rows.length).flatMap fun (k : Nat) => emitRow s x (y + (k : Int)) (rows.getD k [])

/-- Bit `k` of an image's body, the most significant bit of a byte first (20_memory.md R68). -/
def imageBit (s : State) (base k : Nat) : Bool := (memRead s (base + 12 + k / 8)).getLsbD (7 - k % 8)

end Sys2Proof.Machine
end

