-- ==== Sys2Proof/Certificates/Slice0/Obligations.lean ====
section
/-! DEFINITION. The statements for the provers. Each docstring names the rules of spec/ the statement is about;
where a clause rests on a choice of the model, it names the assumption. -/

open Sys2Proof Sys2Proof.Machine

/-! ### Encoding -/

/-- Decoding the packet the encoder writes for a command gives that command back, for every command with every
operand its fields can carry (30_encoding.md R96 to R100, R105). -/
def Obligations.DecodeEncodeAgree : Prop :=
  ∀ i : Instr, i.wf = true → decode (encode i) = .ok i

/-- 30_encoding.md R92: the opcode alone decides the command; the words and flag bits that its format does not
name are ignored; the encoder writes 0 in them. -/
def Obligations.UnnamedBitsIgnored : Prop :=
  ∀ (p : Packet) (i : Instr), decode p = .ok i →
    i.opcode = packetOp p ∧ i.wf = true ∧ encode i = packetAnd p (namedBits i) ∧
      (∀ q : Packet, packetOp q = packetOp p → ∃ j, decode q = .ok j ∧ j.opcode = i.opcode) ∧
      ∀ q : Packet, packetAnd q (namedBits i) = packetAnd p (namedBits i) → decode q = .ok i

/-- 30_encoding.md R101, 60_exceptions.md R345: a reserved opcode carries no command; the packet is taken,
LASTERR becomes 1, sticky bit 1 is set, nothing else changes but the port and BUSY. -/
def Obligations.ReservedOpcodeIsIllegal : Prop :=
  ∀ p : Packet,
    ((∃ i, decode p = .ok i) ↔ ¬ reservedOpcode (packetOp p)) ∧
      ∀ (s : State) (rest : List Packet), reservedOpcode (packetOp p) → s.queue = p :: rest →
        step s = .next { s with
          queue := rest, busy := !rest.isEmpty, lastErr := 1#8, errSticky := s.errSticky ||| 2#16 }

/-- Packets written out in 30_encoding.md R102 and R104, 47_glyph.md R292 and 48_image.md R312 decode to the
commands those rules say they are, and the two lines of R104 assemble to theirs. -/
def Obligations.SamplePacketsDecode : Prop :=
  decode ⟨0x0015, 0x0002, 0x0003, 0x000A, 0xFFFF, 0, 0, 0⟩ = .ok (.drawLine 2 3 10 (-1)) ∧
    decode ⟨0x021A, 0x000A, 0x0014, 0x0040, 0x0001, 0x0003, 0x0200, 0x0000⟩ =
      .ok (.drawText false true 10 20 0x00010040 3 0x200) ∧
    decode ⟨0x0220, 0, 0, 0x0300, 0, 0x0004, 0x0340, 0⟩ = .ok (.measureText true 0x300 4 0x340) ∧
    decode ⟨0x001B, 0x000A, 0x0014, 0x0100, 0x0000, 0x000F, 0x0000, 0x0000⟩ = .ok (.drawImage 10 20 0x100 15) ∧
    decode ⟨0, 0, 0, 0, 0, 0, 0, 0⟩ = .ok .nop ∧
    decode ⟨0xFFFF, 0xFFFF, 0xFFFF, 0xFFFF, 0xFFFF, 0xFFFF, 0xFFFF, 0xFFFF⟩ = .error (.reservedOpcode 0xFF) ∧
    (assembleLine "DRAW_LINE 2, 3, 10, -1").map encode = some ⟨0x0015, 0x0002, 0x0003, 0x000A, 0xFFFF, 0, 0, 0⟩ ∧
    (assembleLine "DRAW_TEXT 0, 1, 10, 20, 0x00010040, 3, 0x200").map encode =
      some ⟨0x021A, 0x000A, 0x0014, 0x0040, 0x0001, 0x0003, 0x0200, 0x0000⟩

/-! ### The step -/

/-- A step runs the command that the packet at the head of the port decodes to, on the state in which the packet
has left the port and BUSY is 1, and settles BUSY afterwards (10_state.md R36, R43). -/
def Obligations.StepRunsDecodedCommand : Prop :=
  ∀ (s : State) (p : Packet) (rest : List Packet) (i : Instr), s.queue = p :: rest → decode p = .ok i →
    ∀ t, exec i { s with queue := rest, busy := true } = .next t → step s = .next { t with busy := !t.queue.isEmpty }

/-- Packets are taken in the order written, one a step, each to completion; none is dropped or reordered, and after a
step BUSY is 1 exactly when a further packet waits (10_state.md R36, R43, 70_reset_and_hazards.md R367). With no
packet the step waits; that it is a step at all is the model's choice (assumption 5). -/
def Obligations.StepTakesOnePacketInOrder : Prop :=
  ∀ s : State, (s.queue = [] → step s = .next { s with busy := false }) ∧
    ∀ (p : Packet) (rest : List Packet), s.queue = p :: rest →
      ∃ t, step s = .next t ∧ t.queue = rest ∧ t.busy = !rest.isEmpty ∧ t.par = s.par ∧ t.amem = s.amem

/-! ### Invariants -/

/-- The state right after reset meets the invariants of 10_state.md R47. -/
def Obligations.ResetMeetsInvariant : Prop := State.reset.Inv

/-- 10_state.md R47: the invariants hold again after every step from a state that meets them. -/
def Obligations.StepKeepsInvariant : Prop :=
  ∀ s t : State, s.Inv → step s = .next t → t.Inv

/-- An event stream in which brackets match, every window lies on the device and is filled exactly, offsets are in
range and orientation events stand outside brackets stays so over every step (20_memory.md R66, R70 to R72). -/
def Obligations.StepKeepsEventStreamWellFormed : Prop :=
  ∀ s t : State, s.Inv → streamOk s.par s.events = true → step s = .next t → streamOk t.par t.events = true

/-- Reset gives every persistent field the value of 10_state.md R46, empties the port, and emits nothing. -/
def Obligations.ResetValues : Prop :=
  ∀ s : State, s.hostReset = { State.reset with par := s.par, amem := s.amem } ∧
    State.reset.orient = .portrait ∧ State.reset.origin = true ∧ State.reset.scroll = 0 ∧ State.reset.aa = false ∧
    State.reset.lineW = 1 ∧ State.reset.fg = ⟨255, 255, 255, 0xFFFF⟩ ∧ State.reset.bg = ⟨0, 0, 0, 0⟩ ∧
    State.reset.fontValid = false ∧ State.reset.fontBase = 0 ∧ State.reset.fontSize = 0 ∧
    State.reset.fontType = 0 ∧ State.reset.fontLh = 0 ∧ State.reset.fontBl = 0 ∧ State.reset.wrap = false ∧
    State.reset.wrapScroll = false ∧ State.reset.marginL = 0 ∧ State.reset.marginR = 0 ∧ State.reset.marginB = 0 ∧
    State.reset.lineGap = 0 ∧ State.reset.caretX = 0 ∧ State.reset.caretY = 0 ∧ State.reset.res = 0 ∧
    State.reset.boundX1 = 0 ∧ State.reset.boundY1 = 0 ∧ State.reset.boundX2 = 0 ∧ State.reset.boundY2 = 0 ∧
    State.reset.boundVis = false ∧ State.reset.lastErr = 0 ∧ State.reset.errSticky = 0 ∧ State.reset.busy = false ∧
    State.reset.brOpen = false ∧ State.reset.brBase = 0 ∧ State.reset.brSize = 0 ∧ State.reset.brPos = 0 ∧
    State.reset.nest = 0 ∧ State.reset.queue = [] ∧ State.reset.events = []

/-- What the host does between two steps keeps the invariants, and a byte of asset memory it writes is read back
while every other byte stays (20_memory.md R61, R82, 70_reset_and_hazards.md R360 to R362, R367). That a write
while busy or outside asset memory has no answer, and that a packet written sets BUSY at once, are read from the
rules by the model (assumptions 11 and 18). -/
def Obligations.HostActionsKeepInvariant : Prop :=
  ∀ s : State, s.Inv →
    s.hostReset.Inv ∧
      (∀ p t, s.hostWriteCommand p = some t → t = { s with queue := s.queue ++ [p], busy := true } ∧ t.Inv) ∧
      ∀ a v t, s.hostWriteAsset a v = some t →
        t = { s with amem := t.amem } ∧ t.Inv ∧ memRead t a = v ∧ ∀ b, b ≠ a → memRead t b = memRead s b

/-- The host of 70_reset_and_hazards.md R366 reads the result of its own command: it writes a packet to the idle block,
reads BUSY as 1 and no other register, and after the step that runs the packet it reads BUSY as 0 and every register
as the command left it. Whatever stands in the port before the write, BUSY reads 1 until as many steps have run as
packets waited, and then 0: the polling ends. That an idle engine
takes the packet at once is read from the rules by the model (assumption 18). -/
def Obligations.PollingHostReadsItsResult : Prop :=
  ∀ s : State, s.Inv →
    (s.portBusy = false → ∀ p : Packet, ∃ t u, s.hostWriteCommand p = some t ∧
      t.portBusy = true ∧ (∀ index, t.portRead index = none) ∧
      step t = .next u ∧ u.portBusy = false ∧ (∀ index, u.portRead index = some (u.readRegister index)) ∧
      ∀ i, decode p = .ok i → ∃ v, exec i { s with queue := [], busy := true } = .next v ∧ u = { v with busy := false }) ∧
    ∀ p t, s.hostWriteCommand p = some t → ∃ after : Nat → State, after 0 = t ∧
      (∀ k, k < t.queue.length → (after k).portBusy = true ∧ (∀ index, (after k).portRead index = none) ∧
        step (after k) = .next (after (k + 1))) ∧
      (after t.queue.length).portBusy = false ∧
      ∀ index, (after t.queue.length).portRead index = some ((after t.queue.length).readRegister index)

/-- STATUS and MODE of the register map (10_state.md R40) bit by bit, the register pairs that hold 32 bits, and the
indices that read 0 (R41). -/
def Obligations.RegisterPortReadsTheMap : Prop :=
  ∀ s : State,
    (∀ k, (s.readRegister 0x01).getLsbD k =
      (match k with
        | 0 => s.busy
        | 1 => decide (s.lastErr ≠ 0)
        | 2 => s.fontValid
        | 3 => s.brOpen
        | 4 => decide (s.errSticky ≠ 0)
        | _ => false)) ∧
      (s.readRegister 0x04).toNat = orientCode s.orient + 4 * s.origin.toNat + 8 * s.aa.toNat + 16 * s.wrap.toNat
        + 32 * s.wrapScroll.toNat ∧
      (s.readRegister 0x12 ++ s.readRegister 0x11 : Word) = s.fontBase ∧
      (s.readRegister 0x14 ++ s.readRegister 0x13 : Word) = s.fontSize ∧
      (s.readRegister 0x1F ++ s.readRegister 0x1E : Word) = s.res ∧
      (s.readRegister 0x26 ++ s.readRegister 0x25 : Word) = s.brPos ∧
      ∀ index : Byte, 0x28 ≤ index.toNat → s.readRegister index = 0

/-! ### How a command ends -/

/-- Every command answers a next state; LASTERR holds its code, a non-zero code sets its sticky bit, only CLEAR_ERR
clears sticky bits; parameters, asset memory and the port are as before (30_encoding.md R106, 60_exceptions.md
R340, R343). -/
def Obligations.EveryCommandEnds : Prop :=
  ∀ (i : Instr) (s : State), ∃ t, exec i s = .next t ∧
    (t.lastErr.toNat = 0 ∨ t.lastErr.toNat ∈ errorCodes i) ∧
    t.errSticky = (if i = .clearErr then 0 else if t.lastErr.toNat = 0 then s.errSticky
      else s.errSticky ||| BitVec.twoPow 16 t.lastErr.toNat) ∧
    t.par = s.par ∧ t.amem = s.amem ∧ t.queue = s.queue ∧ t.busy = s.busy

/-- 60_exceptions.md R342, R346: a command that ends with a code has changed LASTERR and one sticky bit and nothing
else, but for DRAW_TEXT with code 8 and DRAW_IMAGE with code 15, which keep what they did, set the nesting counter
to 0 and emit REL last. -/
def Obligations.FailurePhases : Prop :=
  ∀ (i : Instr) (s t : State), exec i s = .next t → t.lastErr ≠ 0 →
    (t = { s with lastErr := t.lastErr, errSticky := s.errSticky ||| BitVec.twoPow 16 t.lastErr.toNat }) ∨
      ((i.opcode = 0x1A ∧ t.lastErr = 8 ∨ i.opcode = 0x1B ∧ t.lastErr = 15) ∧ t.nest = 0 ∧
        ∃ evs, t.events = s.events ++ evs ++ [.rel])

/-- 20_memory.md R70: a drawing command that passes its checks emits ACQ first and REL last and neither in
between, and leaves the counter at 0; one that fails a check emits nothing. -/
def Obligations.DrawingCommandIsBracketed : Prop :=
  ∀ (i : Instr) (s t : State), 0x10 ≤ i.opcode → i.opcode ≤ 0x1B → s.nest = 0 → exec i s = .next t →
    t.nest = 0 ∧
      ((t.events = s.events ∧ t.lastErr ≠ 0) ∨
        ∃ body, t.events = s.events ++ .acq :: (body ++ [Event.rel]) ∧ Event.acq ∉ body ∧ Event.rel ∉ body)

/-- 40_config.md R127: a configuration command of that file completes in one step, emits at most ORIENT and
SCROLLCMD, reads no asset memory, and leaves the result, the bounds, the caret and the bit reader. -/
def Obligations.ConfigurationCommandsNeverDraw : Prop :=
  ∀ (i : Instr) (s : State) (m : Memory), i.opcode ≤ 0x0C → i.opcode ≠ 0x0A →
    ∃ t evs, exec i s = .next t ∧ exec i { s with amem := m } = .next { t with amem := m } ∧
      t.events = s.events ++ evs ∧ (∀ e ∈ evs, (∃ o, e = .orient o) ∨ ∃ o, e = .scrollCmd o) ∧
      t.res = s.res ∧ t.boundX1 = s.boundX1 ∧ t.boundY1 = s.boundY1 ∧ t.boundX2 = s.boundX2 ∧
      t.boundY2 = s.boundY2 ∧ t.boundVis = s.boundVis ∧ t.caretX = s.caretX ∧ t.caretY = s.caretY ∧
      t.brOpen = s.brOpen ∧ t.brBase = s.brBase ∧ t.brSize = s.brSize ∧ t.brPos = s.brPos

/-- Which command may write which field, over all commands: the font selection only SET_FONT, the text layout only
SET_TEXT_WRAP, the bounds only XFORM_CLIP, the reader only the BR commands, the scroll offset only SCROLL and
DRAW_TEXT, the caret only DRAW_TEXT, a mode or width only its setter, a colour only its setters and BLEND_A
(10_state.md R26, R30 to R33, R37). That XFORM_CLIP may write the result follows 43_bounds.md R190
(assumption 16). -/
def Obligations.OnlyNamedCommandsWriteAField : Prop :=
  ∀ (i : Instr) (s t : State), exec i s = .next t →
    (i.opcode ≠ 0x0A → t.fontValid = s.fontValid ∧ t.fontBase = s.fontBase ∧ t.fontSize = s.fontSize ∧
      t.fontType = s.fontType ∧ t.fontLh = s.fontLh ∧ t.fontBl = s.fontBl) ∧
    (i.opcode ≠ 0x0B → t.wrap = s.wrap ∧ t.wrapScroll = s.wrapScroll ∧ t.marginL = s.marginL ∧
      t.marginR = s.marginR ∧ t.marginB = s.marginB ∧ t.lineGap = s.lineGap) ∧
    (i.opcode ≠ 0x27 → t.boundX1 = s.boundX1 ∧ t.boundY1 = s.boundY1 ∧ t.boundX2 = s.boundX2 ∧
      t.boundY2 = s.boundY2 ∧ t.boundVis = s.boundVis) ∧
    (i.opcode ≠ 0x21 → t.brOpen = s.brOpen ∧ t.brBase = s.brBase ∧ t.brSize = s.brSize) ∧
    (i.opcode ∉ [0x21, 0x22, 0x23, 0x24] → t.brPos = s.brPos) ∧
    (i.opcode ∉ [0x20, 0x22, 0x23, 0x24, 0x25, 0x26, 0x27] → t.res = s.res) ∧
    (i.opcode ∉ [0x09, 0x1A] → t.scroll = s.scroll) ∧
    (i.opcode ≠ 0x1A → t.caretX = s.caretX ∧ t.caretY = s.caretY) ∧
    (i.opcode ∉ [0x01, 0x03, 0x25] → t.fg = s.fg) ∧ (i.opcode ∉ [0x02, 0x04] → t.bg = s.bg) ∧
    (i.opcode ≠ 0x05 → t.lineW = s.lineW) ∧ (i.opcode ≠ 0x06 → t.aa = s.aa) ∧
    (i.opcode ≠ 0x07 → t.orient = s.orient) ∧ (i.opcode ≠ 0x08 → t.origin = s.origin)

/-! ### Configuration commands -/

/-- 40_config.md R112, R113: the channels are stored whole and the packed form is 5-6-5 without rounding. -/
def Obligations.SetColourFromChannels : Prop :=
  (∀ p, packetOp p = 0x01 → decode p = .ok (.setFgRgb (p.w1.setWidth 8) (p.w2.setWidth 8) (p.w3.setWidth 8))) ∧
  (∀ p, packetOp p = 0x02 → decode p = .ok (.setBgRgb (p.w1.setWidth 8) (p.w2.setWidth 8) (p.w3.setWidth 8))) ∧
  ∀ (r g b : Byte) (s : State),
    let c : Color := ⟨r, g, b, BitVec.ofNat 16 (r.toNat / 8 * 2048 + g.toNat / 4 * 32 + b.toNat / 8)⟩
    exec (.setFgRgb r g b) s = .next { s with fg := c, lastErr := 0 } ∧
      exec (.setBgRgb r g b) s = .next { s with bg := c, lastErr := 0 }

/-- 40_config.md R114, R115: the packed form is the operand and the channels repeat their high bits; packing the
channels again gives the operand. -/
def Obligations.SetColourFromPacked : Prop :=
  (∀ q, packetOp q = 0x03 → decode q = .ok (.setFgPacked q.w1)) ∧
  (∀ q, packetOp q = 0x04 → decode q = .ok (.setBgPacked q.w1)) ∧
  ∀ (p : Half) (s : State),
    ∃ c : Color, exec (.setFgPacked p) s = .next { s with fg := c, lastErr := 0 } ∧
      exec (.setBgPacked p) s = .next { s with bg := c, lastErr := 0 } ∧ c.p = p ∧ pack c.r c.g c.b = p ∧
      c.r.toNat = p.toNat / 2048 * 8 + p.toNat / 2048 / 4 ∧
      c.g.toNat = p.toNat / 32 % 64 * 4 + p.toNat / 32 % 64 / 16 ∧
      c.b.toNat = p.toNat % 32 * 8 + p.toNat % 32 / 4

/-- 42_compositor.md R163: packing loses at most the low 3, 2 and 3 bits of the channels, and nothing of a colour
that was unpacked. -/
def Obligations.PackUnpackError : Prop :=
  (∀ p : Half, pack (unpack p).r (unpack p).g (unpack p).b = p) ∧
    ∀ r g b : Byte, let c := unpack (pack r g b)
      ((c.r.toNat : Int) - r.toNat).natAbs ≤ 7 ∧ ((c.g.toNat : Int) - g.toNat).natAbs ≤ 3 ∧
        ((c.b.toNat : Int) - b.toNat).natAbs ≤ 7

/-- 40_config.md R110, R117, R120, R126: NOP clears LASTERR and nothing else, CLEAR_ERR the sticky bits too, the two
flag setters store their flag. -/
def Obligations.NopClearErrAndFlagSetters : Prop :=
  (∀ p, packetOp p = 0x00 → decode p = .ok .nop) ∧ (∀ p, packetOp p = 0x0C → decode p = .ok .clearErr) ∧
  (∀ p, packetOp p = 0x06 → decode p = .ok (.setAntialias (p.w0.getLsbD 8))) ∧
  (∀ p, packetOp p = 0x08 → decode p = .ok (.setOrigin (p.w0.getLsbD 8))) ∧
  ∀ (b : Bool) (s : State), exec .nop s = .next { s with lastErr := 0 } ∧
    exec .clearErr s = .next { s with lastErr := 0, errSticky := 0 } ∧
    exec (.setAntialias b) s = .next { s with aa := b, lastErr := 0 } ∧
    exec (.setOrigin b) s = .next { s with origin := b, lastErr := 0 }

/-- 40_config.md R116, R119: a width in 1 .. 255 is stored, any other is ERR_BAD_OPERAND; an orientation 0 .. 3 is
stored and reported, also when it does not change, any other is ERR_BAD_OPERAND. -/
def Obligations.SettersWithARange : Prop :=
  (∀ p, packetOp p = 0x05 → decode p = .ok (.setLineWidth p.w1.toNat)) ∧
  (∀ p, packetOp p = 0x07 → decode p = .ok (.setOrientation p.w1.toNat)) ∧
  ∀ (v : Nat) (s : State),
    (1 ≤ v → v ≤ 255 → exec (.setLineWidth v) s = .next { s with lineW := v, lastErr := 0 }) ∧
    (v = 0 ∨ 255 < v → exec (.setLineWidth v) s = .next (s.afterFailure .badOperand)) ∧
    (v ≤ 3 → ∃ d, orientCode d = v ∧
      exec (.setOrientation v) s =
        .next { s with orient := d, events := s.events ++ [.orient d], lastErr := 0 }) ∧
    (3 < v → exec (.setOrientation v) s = .next (s.afterFailure .badOperand))

/-- 40_config.md R122: the offset moves by `dy` modulo `DEV_H`, one SCROLLCMD with the new offset where that
changes it, nothing where `dy` is a multiple of `DEV_H`. -/
def Obligations.ScrollMovesModuloHeight : Prop :=
  (∀ p, packetOp p = 0x09 → decode p = .ok (.scroll p.w1.toInt)) ∧
  ∀ (dy : Int) (s : State), s.par.wf = true → s.scroll < s.par.devH →
    ((s.par.devH : Int) ∣ dy → exec (.scroll dy) s = .next { s with lastErr := 0 }) ∧
      (¬ (s.par.devH : Int) ∣ dy → ∃ new : Nat, new < s.par.devH ∧ (s.par.devH : Int) ∣ s.scroll + dy - new ∧
        new ≠ s.scroll ∧
        exec (.scroll dy) s =
          .next { s with scroll := new, events := s.events ++ [.scrollCmd new], lastErr := 0 })

/-- 40_config.md R124: the six fields are stored, the margins and the gap as signed 16-bit numbers. -/
def Obligations.SetTextWrap : Prop :=
  (∀ p, packetOp p = 0x0B → decode p = .ok (.setTextWrap (p.w0.getLsbD 8) (p.w0.getLsbD 9) p.w1.toInt p.w2.toInt
    p.w3.toInt p.w4.toInt)) ∧
  ∀ (wrap wrapscroll : Bool) (left right bottom gap : Int) (s : State),
    fitsS16 left = true → fitsS16 right = true → fitsS16 bottom = true → fitsS16 gap = true →
    ∃ t, exec (.setTextWrap wrap wrapscroll left right bottom gap) s = .next t ∧
      t = { s with
        wrap := wrap, wrapScroll := wrapscroll, marginL := t.marginL, marginR := t.marginR, marginB := t.marginB,
        lineGap := t.lineGap, lastErr := 0 } ∧
      t.marginL.toInt = left ∧ t.marginR.toInt = right ∧ t.marginB.toInt = bottom ∧ t.lineGap.toInt = gap

/-- 47_glyph.md R275: the checks in order, each with its code, and the six fields of a font that passes them. The
type tags are the parameters of 00_scope.md R10, of which R275 writes the defaults 1 and 2 (assumption 10). -/
def Obligations.SetFontChecksInOrder : Prop :=
  ∀ (base size : Nat) (s : State), base < 2 ^ 32 → size < 2 ^ 32 →
    let inRange := base + size ≤ s.par.amemSize
    let magic := be16 s base = s.par.fontMagic.toNat
    let tag := memRead s (base + 2) = s.par.fontTypeBitmask ∨ memRead s (base + 2) = s.par.fontTypeAa
    (¬ inRange → exec (.setFont base size) s = .next (s.afterFailure .assetRange)) ∧
    (inRange → size < 5 → exec (.setFont base size) s = .next (s.afterFailure .fontTrunc)) ∧
    (inRange → 5 ≤ size → ¬ magic → exec (.setFont base size) s = .next (s.afterFailure .fontMagic)) ∧
    (inRange → 5 ≤ size → magic → ¬ tag → exec (.setFont base size) s = .next (s.afterFailure .fontType)) ∧
    (inRange → 5 ≤ size → magic → tag → ∃ b z : Word, b.toNat = base ∧ z.toNat = size ∧
      exec (.setFont base size) s = .next { s with
        fontBase := b, fontSize := z, fontType := memRead s (base + 2), fontLh := memRead s (base + 3),
        fontBl := memRead s (base + 4), fontValid := true, lastErr := 0 })

/-! ### Bit reader -/

/-- 41_bitreader.md R148: the two checks in order, else the reader is opened at bit 0. -/
def Obligations.BrOpen : Prop :=
  (∀ p, packetOp p = 0x21 → decode p =
    .ok (.brOpen (p.w1.toNat + p.w2.toNat * 2 ^ 16) (p.w3.toNat + p.w4.toNat * 2 ^ 16))) ∧
  ∀ (base size : Nat) (s : State), base < 2 ^ 32 → size < 2 ^ 32 →
    (s.par.amemSize < base + size → exec (.brOpen base size) s = .next (s.afterFailure .assetRange)) ∧
    (base + size ≤ s.par.amemSize → 0x1FFFFFFF < size →
      exec (.brOpen base size) s = .next (s.afterFailure .badOperand)) ∧
    (base + size ≤ s.par.amemSize → size ≤ 0x1FFFFFFF → ∃ b z : Word, b.toNat = base ∧ z.toNat = size ∧
      exec (.brOpen base size) s =
        .next { s with brBase := b, brSize := z, brPos := 0, brOpen := true, lastErr := 0 })

/-- 41_bitreader.md R149, R150, R152: the next bit or the next `n` bits, the first the most significant, or 0 where
the field would pass the end; the position advances all the same and saturates; without a reader, or for more than
8 bits, ERR_BAD_OPERAND. -/
def Obligations.BrBitAndBrBits : Prop :=
  (∀ p, packetOp p = 0x22 → decode p = .ok .brBit) ∧
  (∀ p, packetOp p = 0x23 → decode p = .ok (.brBits p.w1.toNat)) ∧
  ∀ (n : Nat) (s : State),
    (s.brOpen = false → exec .brBit s = .next (s.afterFailure .badOperand)) ∧
    (s.brOpen = false ∨ 8 < n → exec (.brBits n) s = .next (s.afterFailure .badOperand)) ∧
    (s.brOpen = true → ∃ v p : Word, exec .brBit s = .next { s with res := v, brPos := p, lastErr := 0 } ∧
      p.toNat = min (s.brPos.toNat + 1) (2 ^ 32 - 1) ∧
      v.toNat = if s.brPos.toNat < 8 * s.brSize.toNat then (s.streamBit s.brPos.toNat).toNat else 0) ∧
    (s.brOpen = true → n ≤ 8 → ∃ v p : Word,
      exec (.brBits n) s = .next { s with res := v, brPos := p, lastErr := 0 } ∧
      p.toNat = min (s.brPos.toNat + n) (2 ^ 32 - 1) ∧ v.toNat < 2 ^ n ∧
      (8 * s.brSize.toNat < s.brPos.toNat + n → v = 0) ∧
      (s.brPos.toNat + n ≤ 8 * s.brSize.toNat →
        ∀ k < n, v.toNat.testBit (n - 1 - k) = s.streamBit (s.brPos.toNat + k)))

/-- 41_bitreader.md R151 with the code table of R145: a code word that lies in the buffer is read back as its
number; where the prefix selects a field of `w` bits that passes the end, the base `2 ^ w` alone is read (2 past the
end); every read gives a number 2 .. 127; without a reader it is ERR_BAD_OPERAND. -/
def Obligations.BrNumReadsTheCode : Prop :=
  (∀ p, packetOp p = 0x24 → decode p = .ok .brNum) ∧
  ∀ s : State, s.par.wf = true →
    (s.brOpen = false → exec .brNum s = .next (s.afterFailure .badOperand)) ∧
      (s.brOpen = true → ∃ v p : Word, exec .brNum s = .next { s with res := v, brPos := p, lastErr := 0 } ∧
        2 ≤ v.toNat ∧ v.toNat ≤ 127 ∧
        (∀ w : Nat, 1 ≤ w → w ≤ 6 → 8 * s.brSize.toNat < s.brPos.toNat + min w 5 + w →
          (∀ k < w - 1, s.brPos.toNat + k < 8 * s.brSize.toNat ∧ s.streamBit (s.brPos.toNat + k) = true) →
          (w < 6 → s.brPos.toNat + (w - 1) < 8 * s.brSize.toNat → s.streamBit (s.brPos.toNat + (w - 1)) = false) →
          v.toNat = 2 ^ w ∧ p.toNat = min (s.brPos.toNat + min w 5 + w) (2 ^ 32 - 1)) ∧
        ∀ x : Nat, 2 ≤ x → x ≤ 127 → s.brPos.toNat + (numberCode x).length ≤ 8 * s.brSize.toNat →
          (∀ k < (numberCode x).length, s.streamBit (s.brPos.toNat + k) = (numberCode x).getD k false) →
          v.toNat = x ∧ p.toNat = min (s.brPos.toNat + (numberCode x).length) (2 ^ 32 - 1))

/-! ### Compositor -/

/-- 42_compositor.md R168 with R165: each channel is the floor of the weighted mean, a negative weight gives the
background, the ends give background and foreground exactly; the foreground is replaced where the flag says so. -/
def Obligations.BlendAlpha : Prop :=
  (∀ p, packetOp p = 0x25 → decode p = .ok (.blendA (p.w0.getLsbD 8) p.w1.toInt)) ∧
  ∀ (tofg : Bool) (alpha : Int) (s : State), ∃ c : Color,
    exec (.blendA tofg alpha) s = .next { s with
      res := BitVec.ofNat 32 (c.r.toNat * 65536 + c.g.toNat * 256 + c.b.toNat)
      fg := if tofg then c else s.fg
      lastErr := 0 } ∧
    (alpha < 0 → c = s.bg) ∧
    (0 ≤ alpha → let a := (min alpha 255).toNat
      c.r.toNat = (s.bg.r.toNat * (255 - a) + s.fg.r.toNat * a) / 255 ∧
      c.g.toNat = (s.bg.g.toNat * (255 - a) + s.fg.g.toNat * a) / 255 ∧
      c.b.toNat = (s.bg.b.toNat * (255 - a) + s.fg.b.toNat * a) / 255 ∧ c.p = pack c.r c.g c.b) ∧
    (alpha = 0 → s.bg.p = pack s.bg.r s.bg.g s.bg.b → c = s.bg) ∧
    (255 ≤ alpha → s.fg.p = pack s.fg.r s.fg.g s.fg.b → c = s.fg)

/-- 42_compositor.md R169 with R166: each channel is the floor of the weighted mean, the clamp never bites,
opacity 0 is the foreground and 255 the background; above 255 it is ERR_BAD_OPERAND. -/
def Obligations.BlendOpacity : Prop :=
  (∀ p, packetOp p = 0x26 → decode p = .ok (.blendO p.w1.toNat)) ∧
  ∀ (o : Nat) (s : State), s.par.wf = true →
    (255 < o → exec (.blendO o) s = .next (s.afterFailure .badOperand)) ∧
      (o ≤ 255 → ∃ r g b : Nat,
        exec (.blendO o) s = .next { s with res := BitVec.ofNat 32 (r * 65536 + g * 256 + b), lastErr := 0 } ∧
        r = (s.fg.r.toNat * (255 - o) + s.bg.r.toNat * o) / 255 ∧
        g = (s.fg.g.toNat * (255 - o) + s.bg.g.toNat * o) / 255 ∧
        b = (s.fg.b.toNat * (255 - o) + s.bg.b.toNat * o) / 255 ∧ r < 256 ∧ g < 256 ∧ b < 256 ∧
        (o = 0 → r = s.fg.r.toNat ∧ g = s.fg.g.toNat ∧ b = s.fg.b.toNat) ∧
        (o = 255 → r = s.bg.r.toNat ∧ g = s.bg.g.toNat ∧ b = s.bg.b.toNat))

/-! ### Bounds -/

/-- 43_bounds.md R182: in each orientation the transform is a bijection of the logical raster onto the physical one
with the inverse the rule lists, and maps a rectangle to a rectangle of the same area. -/
def Obligations.TransformIsABijection : Prop :=
  ∀ s : State, s.par.wf = true →
    let W : Int := s.par.devW
    let H : Int := s.par.devH
    (∀ x y : Int, (0 ≤ x ∧ x < s.logW ∧ 0 ≤ y ∧ y < s.logH) ↔
      let q := transformPoint s x y
      0 ≤ q.1 ∧ q.1 < W ∧ 0 ≤ q.2 ∧ q.2 < H) ∧
    (∀ x y : Int, transformPointInv s (transformPoint s x y).1 (transformPoint s x y).2 = (x, y)) ∧
    (∀ px py : Int, transformPoint s (transformPointInv s px py).1 (transformPointInv s px py).2 = (px, py)) ∧
    (∀ px py : Int, transformPointInv s px py =
      (match s.orient with
        | .portrait => (px, py)
        | .landscape => (py, W - 1 - px)
        | .portraitFlip => (W - 1 - px, H - 1 - py)
        | .landscapeFlip => (H - 1 - py, px))) ∧
    ∀ r : Rect, r.x1 ≤ r.x2 → r.y1 ≤ r.y2 →
      let d := transformToDevice s r
      (∀ x y : Int, r.Holds x y ↔ d.Holds (transformPoint s x y).1 (transformPoint s x y).2) ∧
        (d.x2 - d.x1 + 1) * (d.y2 - d.y1 + 1) = (r.x2 - r.x1 + 1) * (r.y2 - r.y1 + 1)

/-- 43_bounds.md R188: the clip is idempotent, and it is the intersection with the visible part of the device:
"invisible" exactly where that is empty. -/
def Obligations.ClipIsAnIntersection : Prop :=
  ∀ (s : State) (r : Rect), s.par.wf = true →
    (∀ c, clipToVisible s r = some c → clipToVisible s c = some c) ∧
      (r.x1 ≤ r.x2 → r.y1 ≤ r.y2 →
        (clipToVisible s r = none ↔ ∀ px py : Int, ¬ (r.Holds px py ∧ s.Visible px py)) ∧
        ∀ c, clipToVisible s r = some c → ∀ px py : Int, c.Holds px py ↔ r.Holds px py ∧ s.Visible px py)

/-- 43_bounds.md R190: the clipped rectangle and its two shifted rows, or zeros where nothing is visible. -/
def Obligations.XformClip : Prop :=
  (∀ p, packetOp p = 0x27 → decode p =
    .ok (.xformClip (p.w0.getLsbD 8) p.w1.toInt p.w2.toInt p.w3.toInt p.w4.toInt)) ∧
  ∀ (physical : Bool) (x1 y1 x2 y2 : Int) (s : State), s.par.wf = true → s.scroll < s.par.devH →
    let r : Rect := ⟨min x1 x2, min y1 y2, max x1 x2, max y1 y2⟩
    match clipToVisible s (if physical then r else transformToDevice s r) with
    | none => exec (.xformClip physical x1 y1 x2 y2) s = .next { s with
        boundVis := false, boundX1 := 0, boundY1 := 0, boundX2 := 0, boundY2 := 0, res := 0, lastErr := 0 }
    | some c => ∃ (a b d e : Half) (v : Word), exec (.xformClip physical x1 y1 x2 y2) s = .next { s with
        boundVis := true, boundX1 := a, boundY1 := b, boundX2 := d, boundY2 := e, res := v, lastErr := 0 } ∧
        a.toInt = c.x1 ∧ b.toInt = c.y1 ∧ d.toInt = c.x2 ∧ e.toInt = c.y2 ∧
        (v.toNat : Int) = scrollShift s c.y1 + scrollShift s c.y2 * 65536

/-! ### Pixels and fills -/

/-- 43_bounds.md R191, 44_raster_basic.md R205: the pixel is at the transformed point, shown where that is on the
device and in the band, on the row that the scroll shift gives; else only the bracket is emitted. -/
def Obligations.DrawPixelLandsAtTransformedPoint : Prop :=
  (∀ p, packetOp p = 0x10 → decode p = .ok (.drawPixel p.w1.toInt p.w2.toInt)) ∧
  ∀ (x y : Int) (s : State), s.par.wf = true → s.nest = 0 →
    let W : Int := s.par.devW
    let H : Int := s.par.devH
    let p : Int × Int :=
      match s.orient with
      | .portrait => (x, y)
      | .landscape => (W - 1 - y, x)
      | .portraitFlip => (W - 1 - x, H - 1 - y)
      | .landscapeFlip => (y, H - 1 - x)
    let row := if s.origin = true ∧ 0 < s.scroll then (p.2 + s.scroll) % H else p.2
    (s.Visible p.1 p.2 → exec (.drawPixel x y) s = .next (s.afterDrawing
      [.region p.1.toNat row.toNat p.1.toNat row.toNat, .pix s.fg.p])) ∧
      (¬ s.Visible p.1 p.2 → exec (.drawPixel x y) s = .next (s.afterDrawing []))

/-- 44_raster_basic.md R206 to R209: FILL_RECT, HLINE and VLINE are one fill, DRAW_RECT four, top, bottom, left,
right; a size that is not positive draws nothing. -/
def Obligations.RectanglesAreFills : Prop :=
  (∀ p, packetOp p = 0x11 → decode p = .ok (.fillRect p.w1.toInt p.w2.toInt p.w3.toInt p.w4.toInt)) ∧
  (∀ p, packetOp p = 0x12 → decode p = .ok (.hline p.w1.toInt p.w2.toInt p.w3.toInt)) ∧
  (∀ p, packetOp p = 0x13 → decode p = .ok (.vline p.w1.toInt p.w2.toInt p.w3.toInt)) ∧
  (∀ p, packetOp p = 0x14 → decode p = .ok (.drawRect p.w1.toInt p.w2.toInt p.w3.toInt p.w4.toInt)) ∧
  ∀ (x y w h x2 y2 : Int) (s : State), s.nest = 0 →
    (0 < w → 0 < h → exec (.fillRect x y w h) s = .next (s.afterDrawing (fill s s.fg x y (x + w - 1) (y + h - 1))) ∧
      exec (.drawRect x y w h) s = .next (s.afterDrawing
        (fill s s.fg x y (x + w - 1) y ++ fill s s.fg x (y + h - 1) (x + w - 1) (y + h - 1)
          ++ fill s s.fg x y x (y + h - 1) ++ fill s s.fg (x + w - 1) y (x + w - 1) (y + h - 1)))) ∧
    (w ≤ 0 ∨ h ≤ 0 → exec (.fillRect x y w h) s = .next (s.afterDrawing []) ∧
      exec (.drawRect x y w h) s = .next (s.afterDrawing [])) ∧
    exec (.hline x y x2) s = .next (s.afterDrawing (fill s s.fg x y x2 y)) ∧
    exec (.vline x y y2) s = .next (s.afterDrawing (fill s s.fg x y x y2))

/-- On the reference sink of 20_memory.md R76, a fill gives its colour to exactly the pixels that `pixel` would
give it to, taken over all logical points of the rectangle, and to no other (44_raster_basic.md R203). -/
def Obligations.FillPaintsWhatPixelWould : Prop :=
  ∀ (s : State) (c : Color) (x1 y1 x2 y2 : Int) (k : Sink) (X Y : Nat), s.par.wf = true → s.scroll < s.par.devH →
    let painted := ∃ x y : Int, min x1 x2 ≤ x ∧ x ≤ max x1 x2 ∧ min y1 y2 ≤ y ∧ y ≤ max y1 y2 ∧
      pixel s c x y = [.region X Y X Y, .pix c.p]
    (painted → (k.consume (fill s c x1 y1 x2 y2)).pixelAt X Y = c.p) ∧
      (¬ painted → (k.consume (fill s c x1 y1 x2 y2)).pixelAt X Y = k.pixelAt X Y)

/-! ### Lines -/

/-- 45_raster_line.md R220: which rasterizer DRAW_LINE takes. -/
def Obligations.DrawLineDispatch : Prop :=
  (∀ p, packetOp p = 0x15 → decode p = .ok (.drawLine p.w1.toInt p.w2.toInt p.w3.toInt p.w4.toInt)) ∧
  ∀ (x1 y1 x2 y2 : Int) (s : State), s.nest = 0 →
    (s.lineW = 1 → y1 = y2 →
      exec (.drawLine x1 y1 x2 y2) s = .next (s.afterDrawing (fill s s.fg x1 y1 x2 y1))) ∧
    (s.lineW = 1 → y1 ≠ y2 → x1 = x2 →
      exec (.drawLine x1 y1 x2 y2) s = .next (s.afterDrawing (fill s s.fg x1 y1 x1 y2))) ∧
    (s.lineW = 1 → y1 ≠ y2 → x1 ≠ x2 → s.aa = false → exec (.drawLine x1 y1 x2 y2) s =
      .next (s.afterDrawing ((bresPoints x1 y1 x2 y2).flatMap fun p => pixel s s.fg p.1 p.2))) ∧
    (s.lineW = 1 → y1 ≠ y2 → x1 ≠ x2 → s.aa = true → exec (.drawLine x1 y1 x2 y2) s =
      .next (s.afterDrawing ((wuPlots x1 y1 x2 y2).flatMap fun p => pixel s (blendAlpha s.bg s.fg p.a) p.x p.y))) ∧
    (s.lineW ≠ 1 → exec (.drawLine x1 y1 x2 y2) s = .next (s.afterDrawing
      ((thickPlots x1 y1 x2 y2 s.lineW).flatMap fun p => pixel s (blendAlpha s.bg s.fg p.a) p.x p.y)))

/-- 45_raster_line.md R222, R223: the Bresenham walk visits `max dx dy + 1` points, both ends among them, neighbours
differ by at most 1 in each coordinate, rows never decrease; from either end it is the same walk. -/
def Obligations.BresenhamWalk : Prop :=
  ∀ x1 y1 x2 y2 : Int,
    let ps := bresPoints x1 y1 x2 y2
    ps.length = max (x2 - x1).natAbs (y2 - y1).natAbs + 1 ∧ (x1, y1) ∈ ps ∧ (x2, y2) ∈ ps ∧
      bresPoints x2 y2 x1 y1 = ps ∧
      ∀ (k : Nat) (p q : Int × Int), ps[k]? = some p → ps[k + 1]? = some q →
        (q.1 - p.1).natAbs ≤ 1 ∧ 0 ≤ q.2 - p.2 ∧ q.2 - p.2 ≤ 1 ∧ p ≠ q

/-- 45_raster_line.md R225, R226: a Wu line makes two plots for each step of the major axis, the near one first and
the far one its neighbour across the minor axis, their weights in range and adding to 255; the major axis is walked
in rising order, from whichever end the line is drawn, by the exchange in R225 (assumption 15). As a set of
weighted points the line is the same from either end. -/
def Obligations.WuPlotsPairUp : Prop :=
  ∀ x1 y1 x2 y2 : Int, x1 ≠ x2 → y1 ≠ y2 →
    let m := max (x2 - x1).natAbs (y2 - y1).natAbs
    let ps := wuPlots x1 y1 x2 y2
    ps.length = 2 * (m + 1) ∧ (∀ p : Plot, p ∈ wuPlots x2 y2 x1 y1 ↔ p ∈ ps) ∧
      ∀ i ≤ m, ∃ p q : Plot, ps[2 * i]? = some p ∧ ps[2 * i + 1]? = some q ∧ p.a + q.a = 255 ∧ 0 ≤ p.a ∧ 0 ≤ q.a ∧
        (if (x2 - x1).natAbs < (y2 - y1).natAbs then q.x = p.x + 1 ∧ q.y = p.y ∧ p.y = min y1 y2 + i
          else q.x = p.x ∧ q.y = p.y + 1 ∧ p.x = min x1 x2 + i)

/-- 45_raster_line.md R229: the thick walk ends within `dx + dy + 1` passes, its side walks within the fuel the
model gives them (assumption 9), so more fuel changes nothing; weights are in range, and a point is one full
pixel. -/
def Obligations.ThickLineWalk : Prop :=
  ∀ (x0 y0 x1 y1 : Int) (w : Nat), 1 ≤ w →
    (∀ p ∈ thickPlots x0 y0 x1 y1 w, 0 ≤ p.a ∧ p.a ≤ 255) ∧ thickPlots x0 y0 x0 y0 w = [⟨x0, y0, 255⟩] ∧
      let dx : Int := (x1 - x0).natAbs
      let dy : Int := (y1 - y0).natAbs
      let ed : Int := if dx + dy = 0 then 256 else isqrt ((dx * dx + dy * dy) * 65536).toNat
      let t : ThickLine :=
        ⟨x1, y1, if x0 < x1 then 1 else -1, if y0 < y1 then 1 else -1, dx, dy, ed, (w : Int) + 1⟩
      (∀ extra, thickLoop t ((dx + dy).toNat + 1 + extra) x0 y0 (dx - dy) = thickPlots x0 y0 x1 y1 w) ∧
      ∀ (x y e : Int) (extra : Nat), min x0 x1 ≤ x → x ≤ max x0 x1 → min y0 y1 ≤ y → y ≤ max y0 y1 →
        (-dx ≤ 2 * e → thickSideX t x (thickSideFuel t + extra) y (e + dy) = thickSideX t x (thickSideFuel t) y (e + dy)) ∧
        (2 * e ≤ dy → thickSideY t y (thickSideFuel t + extra) x (dx - e) = thickSideY t y (thickSideFuel t) x (dx - e))

/-! ### Round shapes -/

/-- 46_raster_round.md R243: DRAW_CIRCLE draws nothing for a negative radius, eight stamps of the octant points on
the aliased path, else the coverage path over the box of the circle (R256). -/
def Obligations.DrawCircle : Prop :=
  (∀ p, packetOp p = 0x16 → decode p = .ok (.drawCircle p.w1.toInt p.w2.toInt p.w3.toInt)) ∧
  ∀ (xc yc r : Int) (s : State), s.nest = 0 →
    (r < 0 → exec (.drawCircle xc yc r) s = .next (s.afterDrawing [])) ∧
    (1 ≤ r → s.aa = true → exec (.drawCircle xc yc r) s =
      .next (s.afterDrawing (aaRound s ⟨xc - r, yc - r, xc + r, yc + r⟩ r r true))) ∧
    (0 ≤ r → (s.aa = false ∨ r = 0) → exec (.drawCircle xc yc r) s =
      .next (s.afterDrawing ((midpoint r).flatMap fun p =>
        pixel s s.fg (xc - p.1) (yc - p.2) ++ pixel s s.fg (xc + p.1) (yc - p.2)
          ++ pixel s s.fg (xc - p.1) (yc + p.2) ++ pixel s s.fg (xc + p.1) (yc + p.2)
          ++ pixel s s.fg (xc - p.2) (yc - p.1) ++ pixel s s.fg (xc + p.2) (yc - p.1)
          ++ pixel s s.fg (xc - p.2) (yc + p.1) ++ pixel s s.fg (xc + p.2) (yc + p.1))))

/-- 46_raster_round.md R246, R252, R253 with the geometry of R245 and R249: which path the oval and the rounded
rectangles take, the corner radius reduced to what the box holds. -/
def Obligations.OvalAndRoundedRectangles : Prop :=
  (∀ p, packetOp p = 0x17 → decode p = .ok (.drawOval p.w1.toInt p.w2.toInt p.w3.toInt p.w4.toInt)) ∧
  (∀ p, packetOp p = 0x18 → decode p =
    .ok (.drawRoundRect p.w1.toInt p.w2.toInt p.w3.toInt p.w4.toInt p.w5.toInt)) ∧
  (∀ p, packetOp p = 0x19 → decode p =
    .ok (.fillRoundRect p.w1.toInt p.w2.toInt p.w3.toInt p.w4.toInt p.w5.toInt)) ∧
  ∀ (x y w h r : Int) (s : State), s.nest = 0 →
    let rx := (w - 1) / 2
    let ry := (h - 1) / 2
    let rc := min r (min rx ry)
    let b : Rect := ⟨x, y, x + w - 1, y + h - 1⟩
    (w ≤ 0 ∨ h ≤ 0 → exec (.drawOval x y w h) s = .next (s.afterDrawing [])) ∧
    (w ≤ 0 ∨ h ≤ 0 ∨ r < 0 → exec (.drawRoundRect x y w h r) s = .next (s.afterDrawing []) ∧
      exec (.fillRoundRect x y w h r) s = .next (s.afterDrawing [])) ∧
    (0 < w → 0 < h →
      (rx = 0 ∨ ry = 0 → exec (.drawOval x y w h) s = .next (s.afterDrawing (rectOutline s s.fg x y w h))) ∧
      (rx ≠ 0 → ry ≠ 0 → s.aa = true →
        exec (.drawOval x y w h) s = .next (s.afterDrawing (aaRound s b rx ry true))) ∧
      (rx ≠ 0 → ry ≠ 0 → s.aa = false → exec (.drawOval x y w h) s =
        .next (s.afterDrawing (ovalDDA s ⟨x + rx, y + ry, x + w - 1 - rx, y + h - 1 - ry⟩ rx ry)))) ∧
    (0 < w → 0 < h → 0 ≤ r →
      (rc = 0 → exec (.drawRoundRect x y w h r) s = .next (s.afterDrawing (rectOutline s s.fg x y w h)) ∧
        exec (.fillRoundRect x y w h r) s = .next (s.afterDrawing (fill s s.fg b.x1 b.y1 b.x2 b.y2))) ∧
      (rc ≠ 0 → s.aa = true →
        exec (.drawRoundRect x y w h r) s = .next (s.afterDrawing (aaRound s b rc rc true)) ∧
        exec (.fillRoundRect x y w h r) s = .next (s.afterDrawing (aaRound s b rc rc false))) ∧
      (rc ≠ 0 → s.aa = false →
        exec (.drawRoundRect x y w h r) s = .next (s.afterDrawing (roundOutline s b rc)) ∧
        exec (.fillRoundRect x y w h r) s = .next (s.afterDrawing (roundFill s b rc))))

/-- 46_raster_round.md R241: the octant of `midpoint`: it starts at `(0, r)`, the first coordinate counts up from 0,
every pair has `0 <= a <= b <= r` and is the row nearest the circle, and there are at most `r + 1` pairs. That the
pairs are nearest is derived, not a sentence of the rule. -/
def Obligations.MidpointOctant : Prop :=
  ∀ r : Int, 0 ≤ r →
    let ps := midpoint r
    ps[0]? = some (0, r) ∧ ps.length ≤ (r + 1).toNat ∧ (∀ extra, midpointLoop (r.toNat + 1 + extra) 0 r (1 - r) = ps) ∧
      ∀ (k : Nat) (p : Int × Int), ps[k]? = some p →
        p.1 = k ∧ p.1 ≤ p.2 ∧ p.2 ≤ r ∧ p.2 * p.2 - p.2 ≤ r * r - p.1 * p.1 ∧ r * r - p.1 * p.1 ≤ p.2 * p.2 + p.2

/-- 46_raster_round.md R247, R248: the oval's walk starts at the top of the octant, ends at the first point with
`i <= h`, within the model's fuel (assumption 9), its points are in `0 .. m`, and the scaled offsets stay within the
radii. -/
def Obligations.OvalWalk : Prop :=
  ∀ rx ry : Int, 1 ≤ rx → 1 ≤ ry →
    let m := max rx ry
    let ps := ovalOctant m
    ps[0]? = some (0, m) ∧ (∀ extra, ovalLoop m (2 * m.toNat + 2 + extra) 0 (64 * m) = ps) ∧
      ∀ (k : Nat) (p : Int × Int), ps[k]? = some p →
        0 ≤ p.1 ∧ p.1 ≤ m ∧ 0 ≤ p.2 ∧ p.2 ≤ m ∧ (p.2 ≤ p.1 ↔ k + 1 = ps.length) ∧
          (if ry ≤ rx then p.1 * ry / rx ≤ ry ∧ p.2 * ry / rx ≤ ry else p.1 * rx / ry ≤ rx ∧ p.2 * rx / ry ≤ rx)

/-- 46_raster_round.md R255, R262: loop 1 makes at most `rx - 1` steps and loop 2 at most `ry`, each weight is in
`0 .. 255`, and more fuel for loop 2 changes nothing (assumption 9). -/
def Obligations.CoverageStepsBounded : Prop :=
  ∀ rx ry : Int, 1 ≤ rx → 1 ≤ ry →
    ((aaSteps rx ry).filter fun st => st.first).length ≤ (rx - 1).toNat ∧
      ((aaSteps rx ry).filter fun st => !st.first).length ≤ ry.toNat ∧
      (∀ st ∈ aaSteps rx ry, 0 ≤ st.wgt ∧ st.wgt ≤ 255) ∧
      ∀ (v : AaVars) (extra : Nat), -ry ≤ v.yp →
        aaLoop2 (rx * rx) (ry * ry) (ry.toNat + 1 + extra) v = aaLoop2 (rx * rx) (ry * ry) (ry.toNat + 1) v

/-! ### Text -/

/-- 47_glyph.md R274: the scan answers the first record whose code matches, "absent" at the terminator before it,
and "truncated" where a record runs out of the font, whatever the font's size. -/
def Obligations.LookupIsALinearScan : Prop :=
  ∀ (s : State) (c : Nat), 1 ≤ c →
    let p := recordOffset s
    (∀ g, lookupGlyph s c = .found g ↔ ∃ j, (∀ i < j, recordSound s (p i) ∧ fontHalf s (p i) ≠ c) ∧
      recordSound s (p j) ∧ fontHalf s (p j) = c ∧ g = glyphAt s (p j) (recordLength s (p j))) ∧
    (lookupGlyph s c = .absent ↔ ∃ j, (∀ i < j, recordSound s (p i) ∧ fontHalf s (p i) ≠ c) ∧
      p j + 2 ≤ s.fontSize.toNat ∧ fontHalf s (p j) = 0) ∧
    (lookupGlyph s c = .trunc ↔ ∃ j, (∀ i < j, recordSound s (p i) ∧ fontHalf s (p i) ≠ c) ∧
      ¬ recordSound s (p j) ∧ ¬ (p j + 2 ≤ s.fontSize.toNat ∧ fontHalf s (p j) = 0))

/-- 47_glyph.md R277: the kerning after position `i` is the signed byte there, or the byte before the first
sentinel at or before it, or 0 where the sequence starts with the sentinel; past asset memory stands a sentinel. -/
def Obligations.KerningHoldsLastValue : Prop :=
  ∀ (s : State) (t : TextArgs) (i : Nat),
    let sentinel (k : Nat) : Prop := s.par.amemSize ≤ t.kern + k ∨ memRead s (t.kern + k) = s.par.kernEnd
    (t.haskern = false → kernAt s t i = 0) ∧
    (t.haskern = true → (∀ k ≤ i, ¬ sentinel k) → kernAt s t i = (memRead s (t.kern + i)).toInt) ∧
    ∀ k ≤ i, t.haskern = true → sentinel k → (∀ j < k, ¬ sentinel j) →
      kernAt s t i = if k = 0 then 0 else (memRead s (t.kern + k - 1)).toInt

/-- 47_glyph.md R291, R292: the checks in order; then the sum of the advances up to the end of the text or a zero
code; a truncated glyph table leaves the result. -/
def Obligations.MeasureTextSumsAdvances : Prop :=
  (∀ p, packetOp p = 0x20 → decode p = .ok (.measureText (p.w0.getLsbD 9) (p.w3.toNat + p.w4.toNat * 2 ^ 16)
    p.w5.toNat (p.w6.toNat + p.w7.toNat * 2 ^ 16))) ∧
  ∀ (haskern : Bool) (text n kern m : Nat) (adv : Nat → Int) (s : State),
    let t : TextArgs := ⟨false, haskern, text, n, kern⟩
    (s.fontValid = false → exec (.measureText haskern text n kern) s = .next (s.afterFailure .noFont)) ∧
    (s.fontValid = true → s.par.amemSize < text + 2 * n →
      exec (.measureText haskern text n kern) s = .next (s.afterFailure .assetRange)) ∧
    (s.fontValid = true → text + 2 * n ≤ s.par.amemSize → m ≤ n →
      (∀ i < m, charAt s t i ≠ 0 ∧ advance s t i = some (adv i)) →
      (m = n ∨ charAt s t m = 0 → exec (.measureText haskern text n kern) s =
        .next { s with res := BitVec.ofInt 32 ((List.range m).map adv).sum, lastErr := 0 }) ∧
      (m < n → charAt s t m ≠ 0 → advance s t m = none →
        exec (.measureText haskern text n kern) s = .next (s.afterFailure .glyphTrunc)))

/-- 47_glyph.md R293 with wrapping off: the checks in order; then each glyph at the caret that the advances before
it give, and the caret after the last one; at a truncated glyph table what was drawn stays, the caret is the failing
character's, REL is emitted. -/
def Obligations.DrawTextWithoutWrap : Prop :=
  ∀ (erase haskern : Bool) (x y : Int) (text n kern m : Nat) (adv : Nat → Int) (s : State),
    let t : TextArgs := ⟨erase, haskern, text, n, kern⟩
    let caret (i : Nat) : Int := x + ((List.range i).map adv).sum
    let glyphs : List Event := (List.range m).flatMap fun i => charEvents s t i (caret i) y
    (s.fontValid = false → exec (.drawText erase haskern x y text n kern) s = .next (s.afterFailure .noFont)) ∧
    (s.fontValid = true → s.par.amemSize < text + 2 * n →
      exec (.drawText erase haskern x y text n kern) s = .next (s.afterFailure .assetRange)) ∧
    (s.nest = 0 → s.wrap = false → s.fontValid = true → text + 2 * n ≤ s.par.amemSize → m ≤ n →
      (∀ i < m, charAt s t i ≠ 0 ∧ advance s t i = some (adv i)) →
      (m = n ∨ charAt s t m = 0 → exec (.drawText erase haskern x y text n kern) s = .next { s with
        events := s.events ++ Event.acq :: (glyphs ++ [Event.rel])
        caretX := BitVec.ofInt 16 (caret m)
        caretY := BitVec.ofInt 16 y
        lastErr := 0 }) ∧
      (m < n → charAt s t m ≠ 0 → advance s t m = none → exec (.drawText erase haskern x y text n kern) s =
        .next ({ s with
          events := s.events ++ Event.acq :: (glyphs ++ [Event.rel])
          caretX := BitVec.ofInt 16 (caret m)
          caretY := BitVec.ofInt 16 y }.afterFailure .glyphTrunc)))

/-- DRAW_TEXT with any wrap setting (47_glyph.md R293, R296): where no character's lookup is truncated it completes,
changes the scroll offset, the caret and the events alone, and the scroll offset only with wrap scrolling on in
portrait orientation. -/
def Obligations.DrawTextCompletes : Prop :=
  ∀ (erase haskern : Bool) (x y : Int) (text n kern : Nat) (s : State), s.nest = 0 → s.fontValid = true →
    text + 2 * n ≤ s.par.amemSize →
    (∀ i < n, lookupGlyph s (charAt s ⟨erase, haskern, text, n, kern⟩ i) ≠ .trunc) →
    ∃ (scroll : Nat) (cx cy : Half) (body : List Event),
      exec (.drawText erase haskern x y text n kern) s = .next { s with
        scroll := scroll, caretX := cx, caretY := cy, events := s.events ++ Event.acq :: (body ++ [Event.rel]), lastErr := 0 } ∧
      (s.wrap = true ∧ s.wrapScroll = true ∧ s.orient = .portrait ∨ scroll = s.scroll)

/-- 47_glyph.md R294: the break test before a character that starts a word takes the width of the word up to the
next separator, before any other character its own advance; the break needs the caret right of the left margin. -/
def Obligations.WordBreakTest : Prop :=
  ∀ (t : TextArgs) (i m : Nat) (adv : Nat → Int) (r : TextRun), r.st.wrap = true → i < t.n →
    charAt r.st t i ≠ 0x0A → i < m → m ≤ t.n → (∀ j, i ≤ j → j < m → advance r.st t j = some (adv j)) →
    let wordStart := i = 0 ∨ charAt r.st t (i - 1) = 0x20 ∨ charAt r.st t (i - 1) = 0x0A
    let stops (j : Nat) := charAt r.st t j = 0 ∨ charAt r.st t j = 0x20 ∨ charAt r.st t j = 0x0A
    let width : Int := ((List.range' i (m - i)).map adv).sum
    (wordStart → (∀ j, i ≤ j → j < m → ¬ stops j) → (m = t.n ∨ stops m) →
      wrapStep t i r =
        .place (if r.st.marginR.toInt < r.cx + width ∧ r.st.marginL.toInt < r.cx then newline r else r)) ∧
    (¬ wordStart ∨ charAt r.st t i = 0x20 → wrapStep t i r =
      .place (if r.st.marginR.toInt < r.cx + adv i ∧ r.st.marginL.toInt < r.cx then newline r else r))

/-- 47_glyph.md R295, R296: with wrapping on, a newline character breaks the line and draws nothing. A line break
moves the caret to the left margin and down one line and the gap; with wrap scrolling in portrait orientation and
the new cell below the bottom margin, the canvas scrolls by the overflow, the exposed band is filled with the
background at the new offset, and the cell ends at the margin. -/
def Obligations.LineBreakScrolls : Prop :=
  ∀ r : TextRun,
    (∀ t i, r.st.wrap = true → charAt r.st t i = 0x0A → wrapStep t i r = .skip (newline r)) ∧
    let down := r.cy + r.st.fontLh.toNat + r.st.lineGap.toInt
    let ov := down + r.st.fontLh.toNat - r.st.marginB.toInt
    (newline r).cx = r.st.marginL.toInt ∧
    (r.st.wrapScroll = false ∨ r.st.orient ≠ .portrait ∨ ov ≤ 0 →
      (newline r).st = r.st ∧ (newline r).cy = down) ∧
    (r.st.wrapScroll = true → r.st.orient = .portrait → 0 < ov → 1 ≤ r.st.nest →
      let new := ((r.st.scroll + ov) % r.st.par.devH).toNat
      let band := fill { r.st with scroll := new } r.st.bg 0 (r.st.marginB.toInt - ov) (r.st.logW - 1)
        (r.st.marginB.toInt - 1)
      (newline r).cy + r.st.fontLh.toNat = r.st.marginB.toInt ∧
        (newline r).st = { r.st with
          scroll := new
          events := r.st.events ++ (if new = r.st.scroll then [] else [.scrollCmd new]) ++ band })

/-- 47_glyph.md R297: with wrapping off, the caret of DRAW_TEXT has moved by what MEASURE_TEXT answers for the same
text, count, kerning and font. -/
def Obligations.MeasureAgreesWithDraw : Prop :=
  ∀ (erase haskern : Bool) (x y : Int) (text n kern : Nat) (s t u : State), s.wrap = false →
    exec (.drawText erase haskern x y text n kern) s = .next t → t.lastErr = 0 →
    exec (.measureText haskern text n kern) s = .next u → u.lastErr = 0 →
    t.caretX - BitVec.ofInt 16 x = u.res.setWidth 16 ∧ t.caretY = BitVec.ofInt 16 y

/-- 47_glyph.md R283: a run of texels moves the cursor linearly over the lines of the bitmap, wrapping into the next
line and cut at the last; a run that is off emits nothing; the model's fuel suffices (assumption 9). -/
def Obligations.GlyphRunMovesLinearly : Prop :=
  ∀ (s : State) (d : GlyphDraw) (on : Bool) (ln : Nat) (c : GlyphCursor), 0 ≤ c.u → c.u < glyphExt d → 0 ≤ c.v →
    c.v < glyphLim d →
    let pos := c.v * glyphExt d + c.u + ln
    (takeRun s d on ln c).2 =
        (if pos < glyphLim d * glyphExt d then ⟨pos % glyphExt d, pos / glyphExt d⟩ else ⟨0, glyphLim d⟩) ∧
      (takeRun s d false ln c).1 = [] ∧ ∀ extra, glyphRun s d on (ln + extra) ln c = takeRun s d on ln c

/-! ### Images -/

/-- 48_image.md R313: the seven header checks in order, each with its code, and nothing else changed. -/
def Obligations.ImageHeaderChecksInOrder : Prop :=
  ∀ (x y : Int) (base size : Nat) (s : State),
    let run := exec (.drawImage x y base size) s
    let hd := imageHeader s base
    let inSlice := base + size ≤ s.par.amemSize ∧ 12 ≤ size
    let magic := memRead s base = s.par.imageMagic
    let sized := (1 ≤ hd.w ∧ hd.w < 0x8000) ∧ 1 ≤ hd.h ∧ hd.h < 0x8000
    (s.par.amemSize < base + size → run = .next (s.afterFailure .assetRange)) ∧
    (base + size ≤ s.par.amemSize → size < 12 → run = .next (s.afterFailure .imgTrunc)) ∧
    (inSlice → ¬ magic → run = .next (s.afterFailure .imgMagic)) ∧
    (inSlice → magic → hd.clen = 0 → run = .next (s.afterFailure .imgComplen)) ∧
    (inSlice → magic → hd.clen ≠ 0 → hd.win = 0 → run = .next (s.afterFailure .imgWindow)) ∧
    (inSlice → magic → hd.clen ≠ 0 → hd.win ≠ 0 → ¬ sized → run = .next (s.afterFailure .imgSize)) ∧
    (inSlice → magic → hd.clen ≠ 0 → hd.win ≠ 0 → sized → hd.olen ≠ 2 * hd.w * hd.h →
      run = .next (s.afterFailure .imgOutlen))

/-- 48_image.md R312, R317, R321, R322 for a header that passes the checks: an invisible image draws nothing; a
visible one draws exactly `h` rows of `w` pixels and completes, always so with a window of 126 bytes or more, or
stops at a bad back-reference with fewer rows drawn, code 15. -/
def Obligations.ImageDrawsItsRows : Prop :=
  ∀ (x y : Int) (base size : Nat) (s : State), s.par.wf = true → s.nest = 0 → imageError s base size = none →
    let run := exec (.drawImage x y base size) s
    let hd := imageHeader s base
    let visible := toDevice s ⟨x, y, x + hd.w - 1, y + hd.h - 1⟩ ≠ none
    let completes := ∃ rows : List (List Half), rows.length = hd.h ∧ (∀ row ∈ rows, row.length = hd.w) ∧
      run = .next (s.afterDrawing (imageRows s x y rows))
    (¬ visible → run = .next (s.afterDrawing [])) ∧
    (visible → 126 ≤ hd.win → completes) ∧
    (visible → completes ∨ ∃ rows : List (List Half), rows.length < hd.h ∧ (∀ row ∈ rows, row.length = hd.w) ∧
      run = .next ({ s with events := s.events ++ Event.acq :: (imageRows s x y rows ++ [Event.rel]) }.afterFailure .imgBackref))

/-- 48_image.md R318 to R321, R323 and R325 for a body of literals: byte `j` of the data is the eight bits after the
0 bit of token `j`, 0 where they pass the end of the body; two bytes make a big-endian pixel, `w` pixels a row. -/
def Obligations.LiteralImageDecodes : Prop :=
  ∀ (x y : Int) (base size : Nat) (bytes : Nat → Byte) (s : State), s.nest = 0 → imageError s base size = none →
    let hd := imageHeader s base
    let limit := 8 * min hd.clen (size - 12)
    (∀ j < hd.olen, (9 * j < limit → imageBit s base (9 * j) = false) ∧
      (9 * j + 9 ≤ limit → ∀ k < 8, imageBit s base (9 * j + 1 + k) = (bytes j).getLsbD (7 - k)) ∧
      (limit < 9 * j + 9 → bytes j = 0)) →
    exec (.drawImage x y base size) s = .next (s.afterDrawing (imageRows s x y
      ((List.range hd.h).map fun r => (List.range hd.w).map fun c =>
        bytes (2 * (r * hd.w + c)) ++ bytes (2 * (r * hd.w + c) + 1))))

/-- 48_image.md R319, R320: offset 1 names the byte written last, and each byte delivered moves the older ones one
offset back; a copy is taken byte by byte, each copied byte entering the window first, and is cut at the declared
length (R324); the loop's fuel suffices (R321, assumption 9). -/
def Obligations.WindowNamesRecentBytes : Prop :=
  ∀ (s : State) (a : ImageArgs) (d : ImageDec), d.window.length = a.hd.win → d.wpos < a.hd.win →
    (∀ b, windowAt a 1 (deliver s a b d) = b ∧
      ∀ off, 1 ≤ off → off < a.hd.win → windowAt a (off + 1) (deliver s a b d) = windowAt a off d) ∧
    (∀ off cnt, copyLoop s a off (cnt + 1) d =
      if a.hd.olen ≤ d.count then d else copyLoop s a off cnt (deliver s a (windowAt a off d) d)) ∧
    (∀ off cnt, d.count ≤ a.hd.olen → (copyLoop s a off cnt d).count = min (d.count + cnt) a.hd.olen) ∧
    ∀ extra, imageLoop s a (a.hd.olen + extra) d = imageLoop s a a.hd.olen d

/-- 48_image.md R325 for a row that is wholly visible and not shifted: one region of one physical row in the
portrait orientations and one column in the landscape ones, pixels in order, reversed in the flip variants. -/
def Obligations.ImageRowFollowsOrientation : Prop :=
  ∀ (s : State) (x ly : Int) (row : List Half), s.par.wf = true → s.scroll = 0 → row ≠ [] → 0 ≤ x →
    x + row.length ≤ s.logW → 0 ≤ ly → ly < s.logH →
    let n : Int := row.length
    let W : Int := s.par.devW
    let H : Int := s.par.devH
    let at4 (x1 y1 x2 y2 : Int) (cs : List Half) : List Event :=
      .region x1.toNat y1.toNat x2.toNat y2.toNat :: cs.map .pix
    emitRow s x ly row =
      match s.orient with
      | .portrait => at4 x ly (x + n - 1) ly row
      | .landscape => at4 (W - 1 - ly) x (W - 1 - ly) (x + n - 1) row
      | .portraitFlip => at4 (W - x - n) (H - 1 - ly) (W - 1 - x) (H - 1 - ly) row.reverse
      | .landscapeFlip => at4 ly (H - x - n) ly (H - 1 - x) row.reverse
end

