-- ==== Sys2Proof/Laws/Bounds.lean ====
section
/-! SUPPORT. What the clip, the scroll shift and the two emitters answer, and how many events they emit. -/

namespace Sys2Proof.Machine

/-- The band of 43_bounds.md R184 starts on the device and is not empty. -/
theorem scrollBand_ordered (s : State) (h : 0 < s.par.devH) :
    0 ≤ (scrollBand s).1 ∧ (scrollBand s).1 ≤ (scrollBand s).2 := by
  unfold scrollBand
  have h0 := Int.emod_nonneg ((s.par.devH : Int) - s.scroll) (by omega : (s.par.devH : Int) ≠ 0)
  have h1 := Int.emod_lt_of_pos ((s.par.devH : Int) - s.scroll) (by omega : (0 : Int) < s.par.devH)
  split
  · simp only; omega
  · split
    · simp only; omega
    · split <;> simp only <;> omega

/-- A visible rectangle is the rectangle cut by the device and by the band, and it is not empty when the
rectangle was normalised. -/
theorem clipToVisible_some (s : State) (r c : Rect) (h : clipToVisible s r = some c) :
    c = ⟨max r.x1 0, max (max r.y1 0) (scrollBand s).1, min r.x2 (s.par.devW - 1),
        min (min r.y2 (s.par.devH - 1)) (scrollBand s).2⟩ ∧
      0 ≤ r.x2 ∧ r.x1 < s.par.devW ∧ 0 ≤ r.y2 ∧ r.y1 < s.par.devH ∧
      (scrollBand s).1 ≤ min r.y2 (s.par.devH - 1) ∧ max r.y1 0 ≤ (scrollBand s).2 := by
  unfold clipToVisible at h
  split at h
  · cases h
  · rename_i h1
    simp only at h
    split at h
    · cases h
    · rename_i h2
      simp only [Option.some.injEq] at h
      exact ⟨h.symm, by omega, by omega, by omega, by omega, by omega, by omega⟩

/-- A visible part of a normalised rectangle lies on the device, corners in order. -/
theorem clipToVisible_bounds (s : State) (r c : Rect) (hW : 0 < s.par.devW) (hH : 0 < s.par.devH)
    (hx : r.x1 ≤ r.x2) (hy : r.y1 ≤ r.y2) (h : clipToVisible s r = some c) :
    0 ≤ c.x1 ∧ c.x1 ≤ c.x2 ∧ c.x2 < s.par.devW ∧ 0 ≤ c.y1 ∧ c.y1 ≤ c.y2 ∧ c.y2 < s.par.devH := by
  have hb := scrollBand_ordered s hH
  obtain ⟨rfl, h1, h2, h3, h4, h5, h6⟩ := clipToVisible_some s r c h
  simp only
  omega

/-- The row a visible row is written to is a row of the device. -/
theorem scrollShift_range (s : State) (y : Int) (h0 : 0 ≤ y) (h1 : y < s.par.devH) :
    0 ≤ scrollShift s y ∧ scrollShift s y < s.par.devH := by
  unfold scrollShift
  split
  · exact ⟨Int.emod_nonneg _ (by omega), Int.emod_lt_of_pos _ (by omega)⟩
  · exact ⟨h0, h1⟩

/-- Normalised corners are in order. -/
theorem rectNorm_ordered (r : Rect) : (rectNorm r).x1 ≤ (rectNorm r).x2 ∧ (rectNorm r).y1 ≤ (rectNorm r).y2 := by
  simp [rectNorm]

/-- The transform gives a normalised rectangle. -/
theorem transformToDevice_ordered (s : State) (r : Rect) :
    (transformToDevice s r).x1 ≤ (transformToDevice s r).x2 ∧
      (transformToDevice s r).y1 ≤ (transformToDevice s r).y2 :=
  rectNorm_ordered _

/-- `pixel` emits nothing, or one REGION of one pixel on the device and one PIX. -/
theorem pixel_cases (s : State) (c : Color) (x y : Int) (hW : 0 < s.par.devW) (hH : 0 < s.par.devH) :
    pixel s c x y = [] ∨
      ∃ px py : Nat, px < s.par.devW ∧ py < s.par.devH ∧ pixel s c x y = [.region px py px py, .pix c.p] := by
  unfold pixel
  split
  · exact .inl rfl
  · split
    · exact .inl rfl
    · rename_i b hb
      have ho := transformToDevice_ordered s ⟨x, y, x, y⟩
      obtain ⟨h0, h1, h2, h3, h4, h5⟩ := clipToVisible_bounds s _ b hW hH ho.1 ho.2 hb
      have hsh := scrollShift_range s b.y1 h3 (by omega)
      exact .inr ⟨b.x1.toNat, (scrollShift s b.y1).toNat, by omega, by omega, rfl⟩

/-- The rectangle `toDevice` answers lies on the device, corners in order. -/
theorem toDevice_bounds (s : State) (r b : Rect) (hW : 0 < s.par.devW) (hH : 0 < s.par.devH)
    (h : toDevice s r = some b) :
    0 ≤ b.x1 ∧ b.x1 ≤ b.x2 ∧ b.x2 < s.par.devW ∧ 0 ≤ b.y1 ∧ b.y1 ≤ b.y2 ∧ b.y2 < s.par.devH := by
  have ho := transformToDevice_ordered s (rectNorm r)
  exact clipToVisible_bounds s _ b hW hH ho.1 ho.2 h

/-- `fill` emits nothing, or one filled region, or two (44_raster_basic.md R203). -/
theorem fill_cases (s : State) (c : Color) (x1 y1 x2 y2 : Int) :
    fill s c x1 y1 x2 y2 = [] ∨
      ∃ b : Rect, toDevice s ⟨x1, y1, x2, y2⟩ = some b ∧
        ((scrollShift s b.y1 ≤ scrollShift s b.y2 ∧
            fill s c x1 y1 x2 y2 = regionRun c b.x1 (scrollShift s b.y1) b.x2 (scrollShift s b.y2)) ∨
          (scrollShift s b.y2 < scrollShift s b.y1 ∧
            fill s c x1 y1 x2 y2 = regionRun c b.x1 (scrollShift s b.y1) b.x2 (s.par.devH - 1)
              ++ regionRun c b.x1 0 b.x2 (scrollShift s b.y2))) := by
  unfold fill
  split
  · exact .inl rfl
  · rename_i b hb
    refine .inr ⟨b, hb, ?_⟩
    by_cases h : scrollShift s b.y1 ≤ scrollShift s b.y2
    · exact .inl ⟨h, by simp [h]⟩
    · exact .inr ⟨by omega, by simp [h]⟩

/-- `pixel` emits at most 2 events (44_raster_basic.md R210). -/
theorem pixel_length_le (s : State) (c : Color) (x y : Int) : (pixel s c x y).length ≤ 2 := by
  unfold pixel
  split
  · exact Nat.zero_le 2
  · split
    · exact Nat.zero_le 2
    · exact Nat.le_refl 2

/-- `fill` emits at most 4 events (44_raster_basic.md R210), and at most 2 where the shifted rows cannot wrap
(R203). -/
theorem fill_length_le (s : State) (c : Color) (x1 y1 x2 y2 : Int) :
    (fill s c x1 y1 x2 y2).length ≤ 4 ∧
      (s.origin = false ∨ s.scroll = 0 → 0 < s.par.devW → 0 < s.par.devH → (fill s c x1 y1 x2 y2).length ≤ 2) := by
  rcases fill_cases s c x1 y1 x2 y2 with h | ⟨b, hb, ⟨_, h⟩ | ⟨hlt, h⟩⟩ <;> rw [h]
  · exact ⟨Nat.zero_le 4, fun _ _ _ => Nat.zero_le 2⟩
  · exact ⟨by simp [regionRun], fun _ _ _ => Nat.le_refl 2⟩
  · refine ⟨by simp [regionRun], fun hs hW hH => ?_⟩
    have hno : ¬ (s.origin = true ∧ 0 < s.scroll) := by rcases hs with hs | hs <;> simp [hs]
    have hy := (toDevice_bounds s _ b hW hH hb).2.2.2.2.1
    simp only [scrollShift, if_neg hno] at hlt
    omega

end Sys2Proof.Machine
end

