-- ==== Sys2Proof/Laws/Units.lean ====
section
/-! SUPPORT. The bit reader, the compositor's channels and the integer square root. -/

namespace Sys2Proof.Machine

/-! ### Bit reader -/

/-- A bit is 0 or 1, and the position advances by one and nothing else of the reader changes
(41_bitreader.md R141). -/
theorem readBit_spec (s : State) (br : BitReader) :
    (readBit s br).1 ≤ 1 ∧ (readBit s br).2 = { br with pos := br.pos + 1 } := by
  unfold readBit
  split
  · exact ⟨Nat.zero_le _, rfl⟩
  · exact ⟨Bool.toNat_le _, rfl⟩

theorem readBitsLoop_spec (s : State) (n : Nat) :
    ∀ (v : Nat) (br : BitReader), (readBitsLoop s n v br).2 = { br with pos := br.pos + n } ∧
      v * 2 ^ n ≤ (readBitsLoop s n v br).1 ∧ (readBitsLoop s n v br).1 < (v + 1) * 2 ^ n := by
  induction n with
  | zero => intro v br; simp [readBitsLoop]
  | succ n ih =>
    intro v br
    obtain ⟨hb, hp⟩ := readBit_spec s br
    obtain ⟨h1, h2, h3⟩ := ih (2 * v + (readBit s br).1) (readBit s br).2
    simp only [readBitsLoop]
    refine ⟨?_, ?_, ?_⟩
    · rw [h1, hp]; simp only [BitReader.mk.injEq, true_and]; omega
    · refine le_trans ?_ h2
      rw [pow_succ, mul_comm (2 ^ n) 2, ← mul_assoc]
      exact Nat.mul_le_mul_right _ (by omega)
    · refine lt_of_lt_of_le h3 ?_
      rw [pow_succ, mul_comm (2 ^ n) 2, ← mul_assoc]
      exact Nat.mul_le_mul_right _ (by omega)

/-- A field of `n` bits is below `2 ^ n` and the position advances by `n` (R143). -/
theorem readBits_spec (s : State) (n : Nat) (br : BitReader) :
    (readBits s n br).1 < 2 ^ n ∧ (readBits s n br).2 = { br with pos := br.pos + n } := by
  unfold readBits
  split
  · exact ⟨Nat.two_pow_pos n, rfl⟩
  · obtain ⟨h1, _, h3⟩ := readBitsLoop_spec s n 0 br
    exact ⟨by simpa using h3, h1⟩

/-- A number of the code is at least the base it starts from; slice and base stay, the position only grows
(R140, R144). -/
theorem readNumberLoop_spec (s : State) (left : Nat) :
    ∀ (width base : Nat) (br : BitReader), base ≤ (readNumberLoop s left width base br).1 ∧
      (readNumberLoop s left width base br).2.base = br.base ∧
      (readNumberLoop s left width base br).2.size = br.size ∧
      br.pos ≤ (readNumberLoop s left width base br).2.pos := by
  induction left with
  | zero =>
    intro width base br
    have h := (readBits_spec s width br).2
    simp [readNumberLoop, h]
  | succ left ih =>
    intro width base br
    have hb := (readBit_spec s br).2
    unfold readNumberLoop
    split
    · have h := (readBits_spec s width (readBit s br).2).2
      simp only [h]
      simp only [hb]
      exact ⟨by omega, trivial, trivial, by omega⟩
    · obtain ⟨h1, h2, h3, h4⟩ := ih (width + 1) (2 * base) (readBit s br).2
      rw [hb] at h1 h2 h3 h4
      rw [hb]
      exact ⟨by omega, h2, h3, by simp only at h4; omega⟩

/-- The smallest number of the code is 2 (R145). -/
theorem two_le_readNumber (s : State) (br : BitReader) : 2 ≤ (readNumber s br).1 :=
  (readNumberLoop_spec s _ 1 2 br).1

/-! ### Compositor -/

/-- A blended channel does not wrap: it is the quotient itself (42_compositor.md R165). -/
theorem alphaChannel_toNat (bg fg : Byte) (a : Nat) (h : a ≤ 255) :
    (alphaChannel bg fg a).toNat = (bg.toNat * (255 - a) + fg.toNat * a) / 255 := by
  have h1 : bg.toNat ≤ 255 := by have := bg.isLt; omega
  have h2 : fg.toNat ≤ 255 := by have := fg.isLt; omega
  have h3 : bg.toNat * (255 - a) ≤ 255 * (255 - a) := Nat.mul_le_mul_right _ h1
  have h4 : fg.toNat * a ≤ 255 * a := Nat.mul_le_mul_right _ h2
  unfold alphaChannel
  rw [BitVec.toNat_ofNat]
  exact Nat.mod_eq_of_lt (by omega)

/-- A channel of `blendOpacity` does not wrap: it is the clamped quotient itself (R166). -/
theorem opacityChannel_toNat (k : Nat) (fg bg : Byte) (o : Nat) :
    (opacityChannel k fg bg o).toNat = min 255 ((fg.toNat * (255 - o) + bg.toNat * o) / k) := by
  unfold opacityChannel
  rw [BitVec.toNat_ofNat]
  exact Nat.mod_eq_of_lt (by omega)

/-- `blendAlpha` is the background, or three blended channels with their packed form (R165). -/
theorem blendAlpha_cases (bg fg : Color) (a : Int) :
    (a < 0 ∧ blendAlpha bg fg a = bg) ∨
      (0 ≤ a ∧ blendAlpha bg fg a =
        colorOf (alphaChannel bg.r fg.r (min a 255).toNat) (alphaChannel bg.g fg.g (min a 255).toNat)
          (alphaChannel bg.b fg.b (min a 255).toNat)) := by
  unfold blendAlpha
  split
  · exact .inl ⟨by assumption, rfl⟩
  · exact .inr ⟨by omega, rfl⟩

/-! ### Integer square root -/

theorem isqrtLoop_spec (n : Nat) (k : Nat) :
    ∀ r : Nat, r * r ≤ n → n < (r + 2 ^ k) * (r + 2 ^ k) →
      isqrtLoop n k r * isqrtLoop n k r ≤ n ∧ n < (isqrtLoop n k r + 1) * (isqrtLoop n k r + 1) := by
  induction k with
  | zero => intro r h1 h2; exact ⟨h1, by simpa [isqrtLoop] using h2⟩
  | succ k ih =>
    intro r h1 h2
    unfold isqrtLoop
    split
    · rename_i h
      refine ih _ h ?_
      have : r + 2 ^ k + 2 ^ k = r + 2 ^ (k + 1) := by rw [pow_succ]; omega
      rw [this]; exact h2
    · rename_i h
      exact ih r h1 (by omega)

/-- `isqrt n` is the largest integer whose square is at most `n` (00_scope.md R14). -/
theorem isqrt_spec (n : Nat) : isqrt n * isqrt n ≤ n ∧ n < (isqrt n + 1) * (isqrt n + 1) := by
  refine isqrtLoop_spec n _ 0 (Nat.zero_le _) ?_
  have h : n < 2 ^ (n.log2 + 1) := Nat.lt_log2_self
  have : 2 ^ (n.log2 + 1) ≤ 2 ^ (n.log2 / 2 + 1) * 2 ^ (n.log2 / 2 + 1) := by
    rw [← pow_add]
    exact Nat.pow_le_pow_right (by omega) (by omega)
  simpa using lt_of_lt_of_le h this

end Sys2Proof.Machine
end

