-- ==== Sys2Proof/Laws/Image.lean ====
section
/-! SUPPORT. What the pieces of the image decoder can do: how the byte counter and the reader move. -/

namespace Sys2Proof.Machine

/-- Every byte delivered is counted once (48_image.md R319), and the reader is not touched. -/
theorem deliver_spec (s : State) (a : ImageArgs) (b : Byte) (d : ImageDec) :
    (deliver s a b d).count = d.count + 1 ∧ (deliver s a b d).br = d.br ∧
      (deliver s a b d).window = d.window.set d.wpos b ∧ (deliver s a b d).wpos = (d.wpos + 1) % a.hd.win := by
  have hp : ∀ (p : Half) (e : ImageDec), (rowPush s a p e).count = e.count ∧ (rowPush s a p e).br = e.br ∧
      (rowPush s a p e).window = e.window ∧ (rowPush s a p e).wpos = e.wpos := by
    intro p e
    by_cases h : (e.rowbuf ++ [p]).length = a.hd.w <;> simp only [rowPush, h, if_true, if_false, and_self]
  by_cases h : (windowPush a b d).count % 2 = 1
  · have : deliver s a b d = { windowPush a b d with hi := b } := if_pos h
    rw [this]
    exact ⟨rfl, rfl, rfl, rfl⟩
  · have : deliver s a b d = rowPush s a ((windowPush a b d).hi ++ b) (windowPush a b d) := if_neg h
    rw [this]
    exact hp _ _

/-- A copy delivers its bytes, cut at the declared length (R320, R324), and does not read the stream. -/
theorem copyLoop_spec (s : State) (a : ImageArgs) (off : Nat) (cnt : Nat) :
    ∀ d : ImageDec, (copyLoop s a off cnt d).br = d.br ∧
      (copyLoop s a off cnt d).count = max d.count (min (d.count + cnt) a.hd.olen) := by
  induction cnt with
  | zero => intro d; exact ⟨rfl, by simp only [copyLoop]; omega⟩
  | succ cnt ih =>
    intro d
    unfold copyLoop
    split
    · exact ⟨rfl, by omega⟩
    · obtain ⟨h1, h2⟩ := ih (deliver s a (windowAt a off d) d)
      obtain ⟨h3, h4, _⟩ := deliver_spec s a (windowAt a off d) d
      exact ⟨by rw [h1, h4], by rw [h2, h3]; omega⟩

/-- A token that is taken delivers at least one byte (R321), and a token fails only by an offset larger than the
window (R322). -/
theorem imageToken_count (s : State) (a : ImageArgs) (d d' : ImageDec) (hc : d.count < a.hd.olen)
    (h : imageToken s a d = some d') : d.count < d'.count := by
  unfold imageToken at h
  dsimp only at h
  split at h
  · simp only [Option.some.injEq] at h
    subst h
    rw [(deliver_spec s a _ _).1]
    exact Nat.lt_succ_self _
  · split at h
    · cases h
    · simp only [Option.some.injEq] at h
      subst h
      rw [(copyLoop_spec s a _ _ _).2]
      have := two_le_readNumber s (readNumber s (readBit s d.br).2).2
      dsimp only
      omega

end Sys2Proof.Machine
end

