-- ==== Sys2Proof/Laws/Memory.lean ====
section
/-! SUPPORT. Asset memory: a write keeps the canonical form, is read back, and leaves every other address
alone; and what the host's two writes do. -/

namespace Sys2Proof.Machine

theorem Memory.wfFrom_cons (lo : Option Nat) (a : Nat) (v : Byte) (m : Memory) :
    Memory.wfFrom lo ((a, v) :: m) = true ↔
      (∀ l, lo = some l → l < a) ∧ v ≠ unlistedByte ∧ Memory.wfFrom (some a) m = true := by
  cases lo <;> simp [Memory.wfFrom, and_assoc]

theorem memInsert_wfFrom (a : Nat) (v : Byte) (m : Memory) :
    ∀ lo : Option Nat, (∀ l, lo = some l → l < a) → Memory.wfFrom lo m = true →
      Memory.wfFrom lo (memInsert a v m) = true := by
  induction m with
  | nil =>
    intro lo hlo h
    by_cases hv : v = unlistedByte
    · simpa [memInsert, hv] using h
    · simp only [memInsert, hv, if_false]
      exact (Memory.wfFrom_cons lo a v []).2 ⟨hlo, hv, rfl⟩
  | cons c m ih =>
    obtain ⟨b, w⟩ := c
    intro lo hlo h
    obtain ⟨hb, hw, hm⟩ := (Memory.wfFrom_cons lo b w m).1 h
    have lower : ∀ c : Nat, c < b → Memory.wfFrom (some c) ((b, w) :: m) = true := fun c hc =>
      (Memory.wfFrom_cons _ _ _ _).2 ⟨by rintro l ⟨⟩; exact hc, hw, hm⟩
    have weaken : ∀ (lo' : Option Nat) (m' : Memory), (∀ l, lo' = some l → l < b) →
        Memory.wfFrom (some b) m' = true → Memory.wfFrom lo' m' = true := by
      intro lo' m' hl h'
      cases m' with
      | nil => rfl
      | cons d m'' =>
        obtain ⟨e, x⟩ := d
        obtain ⟨h1, h2, h3⟩ := (Memory.wfFrom_cons _ _ _ _).1 h'
        exact (Memory.wfFrom_cons _ _ _ _).2 ⟨fun l h => (hl l h).trans (h1 b rfl), h2, h3⟩
    unfold memInsert
    split
    · split
      · exact h
      · rename_i hab hv
        exact (Memory.wfFrom_cons _ _ _ _).2 ⟨hlo, hv, lower a hab⟩
    · split
      · rename_i hab
        subst hab
        split
        · exact weaken lo m hlo hm
        · rename_i hv
          exact (Memory.wfFrom_cons _ _ _ _).2 ⟨hlo, hv, hm⟩
      · rename_i h1 h2
        exact (Memory.wfFrom_cons _ _ _ _).2 ⟨hb, hw, ih (some b) (by rintro l ⟨⟩; omega) hm⟩

/-- A write keeps the canonical form. -/
theorem memInsert_wf (a : Nat) (v : Byte) (m : Memory) (h : m.wf = true) :
    Memory.wf (memInsert a v m) = true :=
  memInsert_wfFrom a v m none (by simp) h

theorem memLookup_below (a : Nat) (m : Memory) (h : Memory.wfFrom (some a) m = true) :
    memLookup a m = unlistedByte := by
  induction m with
  | nil => rfl
  | cons c m ih =>
    obtain ⟨b, w⟩ := c
    obtain ⟨hb, hw, hm⟩ := (Memory.wfFrom_cons _ _ _ _).1 h
    have hab : a < b := hb a rfl
    have : Memory.wfFrom (some a) m = true := by
      cases m with
      | nil => rfl
      | cons d m' =>
        obtain ⟨e, x⟩ := d
        obtain ⟨h1, h2, h3⟩ := (Memory.wfFrom_cons _ _ _ _).1 hm
        exact (Memory.wfFrom_cons _ _ _ _).2 ⟨by rintro l ⟨⟩; exact hab.trans (h1 b rfl), h2, h3⟩
    simp [memLookup, hab.ne, ih this]

/-- A read after a write, at every address: the byte written there, the old byte anywhere else. -/
theorem memLookup_memInsert (a c : Nat) (v : Byte) (m : Memory) :
    ∀ lo, Memory.wfFrom lo m = true → memLookup c (memInsert a v m) = if c = a then v else memLookup c m := by
  induction m with
  | nil =>
    intro lo _
    by_cases hv : v = unlistedByte <;> simp [memInsert, memLookup, hv]
  | cons d m ih =>
    obtain ⟨b, w⟩ := d
    intro lo h
    obtain ⟨hb, hw, hm⟩ := (Memory.wfFrom_cons _ _ _ _).1 h
    have here : memLookup b m = unlistedByte := memLookup_below b m hm
    have low : a < b → memLookup a ((b, w) :: m) = unlistedByte := fun hab =>
      memLookup_below a _ ((Memory.wfFrom_cons _ _ _ _).2 ⟨by rintro l ⟨⟩; exact hab, hw, hm⟩)
    unfold memInsert
    split
    · rename_i hab
      split
      · rename_i hv
        by_cases hca : c = a
        · subst hca; simp [low hab, hv]
        · simp [hca]
      · simp [memLookup]
    · split
      · rename_i hab
        subst hab
        split
        · rename_i hv
          by_cases hca : c = a
          · subst hca; simp [here, hv]
          · simp [memLookup, hca]
        · by_cases hca : c = a <;> simp [memLookup, hca]
      · rename_i h1 h2
        by_cases hcb : c = b
        · subst hcb
          have : c ≠ a := fun h => h2 h.symm
          simp [memLookup, this]
        · simp [memLookup, hcb, ih (some b) hm]

/-- What asset memory holds after the host wrote a byte of it. -/
theorem hostWriteAsset_spec (s t : State) (a : Nat) (v : Byte) (h : s.hostWriteAsset a v = some t) :
    s.busy = false ∧ a < s.par.amemSize ∧ t = { s with amem := memInsert a v s.amem } := by
  unfold State.hostWriteAsset at h
  split at h
  · rename_i hc
    exact ⟨hc.1, hc.2, by simpa using h.symm⟩
  · cases h

/-- What the host's write of a packet does: the packet stands last and BUSY is 1 (10_state.md R36, R366, R367). -/
theorem hostWriteCommand_spec (s t : State) (p : Packet) (h : s.hostWriteCommand p = some t) :
    s.queue.tail.length < s.par.cmdFifoDepth ∧ t = { s with queue := s.queue ++ [p], busy := true } := by
  unfold State.hostWriteCommand at h
  split at h
  · exact ⟨by assumption, by simpa using h.symm⟩
  · cases h

end Sys2Proof.Machine
end

