-- ==== Sys2Proof/Laws/State.lean ====
section
/-! SUPPORT. One lemma for each field and each update of the state, so that no later proof unfolds a record
update. -/

namespace Sys2Proof.Machine

/-! ### `State.emit` -/

@[simp] theorem State.emit_par (s : State) (evs : List Event) : (s.emit evs).par = s.par := rfl
@[simp] theorem State.emit_orient (s : State) (evs : List Event) : (s.emit evs).orient = s.orient := rfl
@[simp] theorem State.emit_origin (s : State) (evs : List Event) : (s.emit evs).origin = s.origin := rfl
@[simp] theorem State.emit_scroll (s : State) (evs : List Event) : (s.emit evs).scroll = s.scroll := rfl
@[simp] theorem State.emit_aa (s : State) (evs : List Event) : (s.emit evs).aa = s.aa := rfl
@[simp] theorem State.emit_lineW (s : State) (evs : List Event) : (s.emit evs).lineW = s.lineW := rfl
@[simp] theorem State.emit_fg (s : State) (evs : List Event) : (s.emit evs).fg = s.fg := rfl
@[simp] theorem State.emit_bg (s : State) (evs : List Event) : (s.emit evs).bg = s.bg := rfl
@[simp] theorem State.emit_fontValid (s : State) (evs : List Event) : (s.emit evs).fontValid = s.fontValid := rfl
@[simp] theorem State.emit_fontBase (s : State) (evs : List Event) : (s.emit evs).fontBase = s.fontBase := rfl
@[simp] theorem State.emit_fontSize (s : State) (evs : List Event) : (s.emit evs).fontSize = s.fontSize := rfl
@[simp] theorem State.emit_fontType (s : State) (evs : List Event) : (s.emit evs).fontType = s.fontType := rfl
@[simp] theorem State.emit_fontLh (s : State) (evs : List Event) : (s.emit evs).fontLh = s.fontLh := rfl
@[simp] theorem State.emit_fontBl (s : State) (evs : List Event) : (s.emit evs).fontBl = s.fontBl := rfl
@[simp] theorem State.emit_wrap (s : State) (evs : List Event) : (s.emit evs).wrap = s.wrap := rfl
@[simp] theorem State.emit_wrapScroll (s : State) (evs : List Event) : (s.emit evs).wrapScroll = s.wrapScroll := rfl
@[simp] theorem State.emit_marginL (s : State) (evs : List Event) : (s.emit evs).marginL = s.marginL := rfl
@[simp] theorem State.emit_marginR (s : State) (evs : List Event) : (s.emit evs).marginR = s.marginR := rfl
@[simp] theorem State.emit_marginB (s : State) (evs : List Event) : (s.emit evs).marginB = s.marginB := rfl
@[simp] theorem State.emit_lineGap (s : State) (evs : List Event) : (s.emit evs).lineGap = s.lineGap := rfl
@[simp] theorem State.emit_caretX (s : State) (evs : List Event) : (s.emit evs).caretX = s.caretX := rfl
@[simp] theorem State.emit_caretY (s : State) (evs : List Event) : (s.emit evs).caretY = s.caretY := rfl
@[simp] theorem State.emit_res (s : State) (evs : List Event) : (s.emit evs).res = s.res := rfl
@[simp] theorem State.emit_boundX1 (s : State) (evs : List Event) : (s.emit evs).boundX1 = s.boundX1 := rfl
@[simp] theorem State.emit_boundY1 (s : State) (evs : List Event) : (s.emit evs).boundY1 = s.boundY1 := rfl
@[simp] theorem State.emit_boundX2 (s : State) (evs : List Event) : (s.emit evs).boundX2 = s.boundX2 := rfl
@[simp] theorem State.emit_boundY2 (s : State) (evs : List Event) : (s.emit evs).boundY2 = s.boundY2 := rfl
@[simp] theorem State.emit_boundVis (s : State) (evs : List Event) : (s.emit evs).boundVis = s.boundVis := rfl
@[simp] theorem State.emit_lastErr (s : State) (evs : List Event) : (s.emit evs).lastErr = s.lastErr := rfl
@[simp] theorem State.emit_errSticky (s : State) (evs : List Event) : (s.emit evs).errSticky = s.errSticky := rfl
@[simp] theorem State.emit_busy (s : State) (evs : List Event) : (s.emit evs).busy = s.busy := rfl
@[simp] theorem State.emit_brOpen (s : State) (evs : List Event) : (s.emit evs).brOpen = s.brOpen := rfl
@[simp] theorem State.emit_brBase (s : State) (evs : List Event) : (s.emit evs).brBase = s.brBase := rfl
@[simp] theorem State.emit_brSize (s : State) (evs : List Event) : (s.emit evs).brSize = s.brSize := rfl
@[simp] theorem State.emit_brPos (s : State) (evs : List Event) : (s.emit evs).brPos = s.brPos := rfl
@[simp] theorem State.emit_nest (s : State) (evs : List Event) : (s.emit evs).nest = s.nest := rfl
@[simp] theorem State.emit_queue (s : State) (evs : List Event) : (s.emit evs).queue = s.queue := rfl
@[simp] theorem State.emit_amem (s : State) (evs : List Event) : (s.emit evs).amem = s.amem := rfl
@[simp] theorem State.emit_events (s : State) (evs : List Event) : (s.emit evs).events = s.events ++ evs := rfl

/-! ### `State.enter` -/

@[simp] theorem State.enter_par (s : State) : (s.enter).par = s.par := rfl
@[simp] theorem State.enter_orient (s : State) : (s.enter).orient = s.orient := rfl
@[simp] theorem State.enter_origin (s : State) : (s.enter).origin = s.origin := rfl
@[simp] theorem State.enter_scroll (s : State) : (s.enter).scroll = s.scroll := rfl
@[simp] theorem State.enter_aa (s : State) : (s.enter).aa = s.aa := rfl
@[simp] theorem State.enter_lineW (s : State) : (s.enter).lineW = s.lineW := rfl
@[simp] theorem State.enter_fg (s : State) : (s.enter).fg = s.fg := rfl
@[simp] theorem State.enter_bg (s : State) : (s.enter).bg = s.bg := rfl
@[simp] theorem State.enter_fontValid (s : State) : (s.enter).fontValid = s.fontValid := rfl
@[simp] theorem State.enter_fontBase (s : State) : (s.enter).fontBase = s.fontBase := rfl
@[simp] theorem State.enter_fontSize (s : State) : (s.enter).fontSize = s.fontSize := rfl
@[simp] theorem State.enter_fontType (s : State) : (s.enter).fontType = s.fontType := rfl
@[simp] theorem State.enter_fontLh (s : State) : (s.enter).fontLh = s.fontLh := rfl
@[simp] theorem State.enter_fontBl (s : State) : (s.enter).fontBl = s.fontBl := rfl
@[simp] theorem State.enter_wrap (s : State) : (s.enter).wrap = s.wrap := rfl
@[simp] theorem State.enter_wrapScroll (s : State) : (s.enter).wrapScroll = s.wrapScroll := rfl
@[simp] theorem State.enter_marginL (s : State) : (s.enter).marginL = s.marginL := rfl
@[simp] theorem State.enter_marginR (s : State) : (s.enter).marginR = s.marginR := rfl
@[simp] theorem State.enter_marginB (s : State) : (s.enter).marginB = s.marginB := rfl
@[simp] theorem State.enter_lineGap (s : State) : (s.enter).lineGap = s.lineGap := rfl
@[simp] theorem State.enter_caretX (s : State) : (s.enter).caretX = s.caretX := rfl
@[simp] theorem State.enter_caretY (s : State) : (s.enter).caretY = s.caretY := rfl
@[simp] theorem State.enter_res (s : State) : (s.enter).res = s.res := rfl
@[simp] theorem State.enter_boundX1 (s : State) : (s.enter).boundX1 = s.boundX1 := rfl
@[simp] theorem State.enter_boundY1 (s : State) : (s.enter).boundY1 = s.boundY1 := rfl
@[simp] theorem State.enter_boundX2 (s : State) : (s.enter).boundX2 = s.boundX2 := rfl
@[simp] theorem State.enter_boundY2 (s : State) : (s.enter).boundY2 = s.boundY2 := rfl
@[simp] theorem State.enter_boundVis (s : State) : (s.enter).boundVis = s.boundVis := rfl
@[simp] theorem State.enter_lastErr (s : State) : (s.enter).lastErr = s.lastErr := rfl
@[simp] theorem State.enter_errSticky (s : State) : (s.enter).errSticky = s.errSticky := rfl
@[simp] theorem State.enter_busy (s : State) : (s.enter).busy = s.busy := rfl
@[simp] theorem State.enter_brOpen (s : State) : (s.enter).brOpen = s.brOpen := rfl
@[simp] theorem State.enter_brBase (s : State) : (s.enter).brBase = s.brBase := rfl
@[simp] theorem State.enter_brSize (s : State) : (s.enter).brSize = s.brSize := rfl
@[simp] theorem State.enter_brPos (s : State) : (s.enter).brPos = s.brPos := rfl
@[simp] theorem State.enter_nest (s : State) : (s.enter).nest = s.nest + 1 := rfl
@[simp] theorem State.enter_queue (s : State) : (s.enter).queue = s.queue := rfl
@[simp] theorem State.enter_amem (s : State) : (s.enter).amem = s.amem := rfl
@[simp] theorem State.enter_events (s : State) : (s.enter).events = s.events ++ (if s.nest = 0 then [.acq] else []) := rfl

/-! ### `State.leave` -/

@[simp] theorem State.leave_par (s : State) : (s.leave).par = s.par := rfl
@[simp] theorem State.leave_orient (s : State) : (s.leave).orient = s.orient := rfl
@[simp] theorem State.leave_origin (s : State) : (s.leave).origin = s.origin := rfl
@[simp] theorem State.leave_scroll (s : State) : (s.leave).scroll = s.scroll := rfl
@[simp] theorem State.leave_aa (s : State) : (s.leave).aa = s.aa := rfl
@[simp] theorem State.leave_lineW (s : State) : (s.leave).lineW = s.lineW := rfl
@[simp] theorem State.leave_fg (s : State) : (s.leave).fg = s.fg := rfl
@[simp] theorem State.leave_bg (s : State) : (s.leave).bg = s.bg := rfl
@[simp] theorem State.leave_fontValid (s : State) : (s.leave).fontValid = s.fontValid := rfl
@[simp] theorem State.leave_fontBase (s : State) : (s.leave).fontBase = s.fontBase := rfl
@[simp] theorem State.leave_fontSize (s : State) : (s.leave).fontSize = s.fontSize := rfl
@[simp] theorem State.leave_fontType (s : State) : (s.leave).fontType = s.fontType := rfl
@[simp] theorem State.leave_fontLh (s : State) : (s.leave).fontLh = s.fontLh := rfl
@[simp] theorem State.leave_fontBl (s : State) : (s.leave).fontBl = s.fontBl := rfl
@[simp] theorem State.leave_wrap (s : State) : (s.leave).wrap = s.wrap := rfl
@[simp] theorem State.leave_wrapScroll (s : State) : (s.leave).wrapScroll = s.wrapScroll := rfl
@[simp] theorem State.leave_marginL (s : State) : (s.leave).marginL = s.marginL := rfl
@[simp] theorem State.leave_marginR (s : State) : (s.leave).marginR = s.marginR := rfl
@[simp] theorem State.leave_marginB (s : State) : (s.leave).marginB = s.marginB := rfl
@[simp] theorem State.leave_lineGap (s : State) : (s.leave).lineGap = s.lineGap := rfl
@[simp] theorem State.leave_caretX (s : State) : (s.leave).caretX = s.caretX := rfl
@[simp] theorem State.leave_caretY (s : State) : (s.leave).caretY = s.caretY := rfl
@[simp] theorem State.leave_res (s : State) : (s.leave).res = s.res := rfl
@[simp] theorem State.leave_boundX1 (s : State) : (s.leave).boundX1 = s.boundX1 := rfl
@[simp] theorem State.leave_boundY1 (s : State) : (s.leave).boundY1 = s.boundY1 := rfl
@[simp] theorem State.leave_boundX2 (s : State) : (s.leave).boundX2 = s.boundX2 := rfl
@[simp] theorem State.leave_boundY2 (s : State) : (s.leave).boundY2 = s.boundY2 := rfl
@[simp] theorem State.leave_boundVis (s : State) : (s.leave).boundVis = s.boundVis := rfl
@[simp] theorem State.leave_lastErr (s : State) : (s.leave).lastErr = s.lastErr := rfl
@[simp] theorem State.leave_errSticky (s : State) : (s.leave).errSticky = s.errSticky := rfl
@[simp] theorem State.leave_busy (s : State) : (s.leave).busy = s.busy := rfl
@[simp] theorem State.leave_brOpen (s : State) : (s.leave).brOpen = s.brOpen := rfl
@[simp] theorem State.leave_brBase (s : State) : (s.leave).brBase = s.brBase := rfl
@[simp] theorem State.leave_brSize (s : State) : (s.leave).brSize = s.brSize := rfl
@[simp] theorem State.leave_brPos (s : State) : (s.leave).brPos = s.brPos := rfl
@[simp] theorem State.leave_nest (s : State) : (s.leave).nest = s.nest - 1 := rfl
@[simp] theorem State.leave_queue (s : State) : (s.leave).queue = s.queue := rfl
@[simp] theorem State.leave_amem (s : State) : (s.leave).amem = s.amem := rfl
@[simp] theorem State.leave_events (s : State) : (s.leave).events = s.events ++ (if s.nest = 1 then [.rel] else []) := rfl

/-! ### `State.paint` -/

@[simp] theorem State.paint_par (s : State) (evs : List Event) : (s.paint evs).par = s.par := rfl
@[simp] theorem State.paint_orient (s : State) (evs : List Event) : (s.paint evs).orient = s.orient := rfl
@[simp] theorem State.paint_origin (s : State) (evs : List Event) : (s.paint evs).origin = s.origin := rfl
@[simp] theorem State.paint_scroll (s : State) (evs : List Event) : (s.paint evs).scroll = s.scroll := rfl
@[simp] theorem State.paint_aa (s : State) (evs : List Event) : (s.paint evs).aa = s.aa := rfl
@[simp] theorem State.paint_lineW (s : State) (evs : List Event) : (s.paint evs).lineW = s.lineW := rfl
@[simp] theorem State.paint_fg (s : State) (evs : List Event) : (s.paint evs).fg = s.fg := rfl
@[simp] theorem State.paint_bg (s : State) (evs : List Event) : (s.paint evs).bg = s.bg := rfl
@[simp] theorem State.paint_fontValid (s : State) (evs : List Event) : (s.paint evs).fontValid = s.fontValid := rfl
@[simp] theorem State.paint_fontBase (s : State) (evs : List Event) : (s.paint evs).fontBase = s.fontBase := rfl
@[simp] theorem State.paint_fontSize (s : State) (evs : List Event) : (s.paint evs).fontSize = s.fontSize := rfl
@[simp] theorem State.paint_fontType (s : State) (evs : List Event) : (s.paint evs).fontType = s.fontType := rfl
@[simp] theorem State.paint_fontLh (s : State) (evs : List Event) : (s.paint evs).fontLh = s.fontLh := rfl
@[simp] theorem State.paint_fontBl (s : State) (evs : List Event) : (s.paint evs).fontBl = s.fontBl := rfl
@[simp] theorem State.paint_wrap (s : State) (evs : List Event) : (s.paint evs).wrap = s.wrap := rfl
@[simp] theorem State.paint_wrapScroll (s : State) (evs : List Event) : (s.paint evs).wrapScroll = s.wrapScroll := rfl
@[simp] theorem State.paint_marginL (s : State) (evs : List Event) : (s.paint evs).marginL = s.marginL := rfl
@[simp] theorem State.paint_marginR (s : State) (evs : List Event) : (s.paint evs).marginR = s.marginR := rfl
@[simp] theorem State.paint_marginB (s : State) (evs : List Event) : (s.paint evs).marginB = s.marginB := rfl
@[simp] theorem State.paint_lineGap (s : State) (evs : List Event) : (s.paint evs).lineGap = s.lineGap := rfl
@[simp] theorem State.paint_caretX (s : State) (evs : List Event) : (s.paint evs).caretX = s.caretX := rfl
@[simp] theorem State.paint_caretY (s : State) (evs : List Event) : (s.paint evs).caretY = s.caretY := rfl
@[simp] theorem State.paint_res (s : State) (evs : List Event) : (s.paint evs).res = s.res := rfl
@[simp] theorem State.paint_boundX1 (s : State) (evs : List Event) : (s.paint evs).boundX1 = s.boundX1 := rfl
@[simp] theorem State.paint_boundY1 (s : State) (evs : List Event) : (s.paint evs).boundY1 = s.boundY1 := rfl
@[simp] theorem State.paint_boundX2 (s : State) (evs : List Event) : (s.paint evs).boundX2 = s.boundX2 := rfl
@[simp] theorem State.paint_boundY2 (s : State) (evs : List Event) : (s.paint evs).boundY2 = s.boundY2 := rfl
@[simp] theorem State.paint_boundVis (s : State) (evs : List Event) : (s.paint evs).boundVis = s.boundVis := rfl
@[simp] theorem State.paint_lastErr (s : State) (evs : List Event) : (s.paint evs).lastErr = s.lastErr := rfl
@[simp] theorem State.paint_errSticky (s : State) (evs : List Event) : (s.paint evs).errSticky = s.errSticky := rfl
@[simp] theorem State.paint_busy (s : State) (evs : List Event) : (s.paint evs).busy = s.busy := rfl
@[simp] theorem State.paint_brOpen (s : State) (evs : List Event) : (s.paint evs).brOpen = s.brOpen := rfl
@[simp] theorem State.paint_brBase (s : State) (evs : List Event) : (s.paint evs).brBase = s.brBase := rfl
@[simp] theorem State.paint_brSize (s : State) (evs : List Event) : (s.paint evs).brSize = s.brSize := rfl
@[simp] theorem State.paint_brPos (s : State) (evs : List Event) : (s.paint evs).brPos = s.brPos := rfl
@[simp] theorem State.paint_nest (s : State) (evs : List Event) : (s.paint evs).nest = s.nest := rfl
@[simp] theorem State.paint_queue (s : State) (evs : List Event) : (s.paint evs).queue = s.queue := rfl
@[simp] theorem State.paint_amem (s : State) (evs : List Event) : (s.paint evs).amem = s.amem := rfl

/-! ### `State.endCommand` -/

@[simp] theorem State.endCommand_par (s : State) (e : ErrCode) : (s.endCommand e).par = s.par := rfl
@[simp] theorem State.endCommand_orient (s : State) (e : ErrCode) : (s.endCommand e).orient = s.orient := rfl
@[simp] theorem State.endCommand_origin (s : State) (e : ErrCode) : (s.endCommand e).origin = s.origin := rfl
@[simp] theorem State.endCommand_scroll (s : State) (e : ErrCode) : (s.endCommand e).scroll = s.scroll := rfl
@[simp] theorem State.endCommand_aa (s : State) (e : ErrCode) : (s.endCommand e).aa = s.aa := rfl
@[simp] theorem State.endCommand_lineW (s : State) (e : ErrCode) : (s.endCommand e).lineW = s.lineW := rfl
@[simp] theorem State.endCommand_fg (s : State) (e : ErrCode) : (s.endCommand e).fg = s.fg := rfl
@[simp] theorem State.endCommand_bg (s : State) (e : ErrCode) : (s.endCommand e).bg = s.bg := rfl
@[simp] theorem State.endCommand_fontValid (s : State) (e : ErrCode) : (s.endCommand e).fontValid = s.fontValid := rfl
@[simp] theorem State.endCommand_fontBase (s : State) (e : ErrCode) : (s.endCommand e).fontBase = s.fontBase := rfl
@[simp] theorem State.endCommand_fontSize (s : State) (e : ErrCode) : (s.endCommand e).fontSize = s.fontSize := rfl
@[simp] theorem State.endCommand_fontType (s : State) (e : ErrCode) : (s.endCommand e).fontType = s.fontType := rfl
@[simp] theorem State.endCommand_fontLh (s : State) (e : ErrCode) : (s.endCommand e).fontLh = s.fontLh := rfl
@[simp] theorem State.endCommand_fontBl (s : State) (e : ErrCode) : (s.endCommand e).fontBl = s.fontBl := rfl
@[simp] theorem State.endCommand_wrap (s : State) (e : ErrCode) : (s.endCommand e).wrap = s.wrap := rfl
@[simp] theorem State.endCommand_wrapScroll (s : State) (e : ErrCode) : (s.endCommand e).wrapScroll = s.wrapScroll := rfl
@[simp] theorem State.endCommand_marginL (s : State) (e : ErrCode) : (s.endCommand e).marginL = s.marginL := rfl
@[simp] theorem State.endCommand_marginR (s : State) (e : ErrCode) : (s.endCommand e).marginR = s.marginR := rfl
@[simp] theorem State.endCommand_marginB (s : State) (e : ErrCode) : (s.endCommand e).marginB = s.marginB := rfl
@[simp] theorem State.endCommand_lineGap (s : State) (e : ErrCode) : (s.endCommand e).lineGap = s.lineGap := rfl
@[simp] theorem State.endCommand_caretX (s : State) (e : ErrCode) : (s.endCommand e).caretX = s.caretX := rfl
@[simp] theorem State.endCommand_caretY (s : State) (e : ErrCode) : (s.endCommand e).caretY = s.caretY := rfl
@[simp] theorem State.endCommand_res (s : State) (e : ErrCode) : (s.endCommand e).res = s.res := rfl
@[simp] theorem State.endCommand_boundX1 (s : State) (e : ErrCode) : (s.endCommand e).boundX1 = s.boundX1 := rfl
@[simp] theorem State.endCommand_boundY1 (s : State) (e : ErrCode) : (s.endCommand e).boundY1 = s.boundY1 := rfl
@[simp] theorem State.endCommand_boundX2 (s : State) (e : ErrCode) : (s.endCommand e).boundX2 = s.boundX2 := rfl
@[simp] theorem State.endCommand_boundY2 (s : State) (e : ErrCode) : (s.endCommand e).boundY2 = s.boundY2 := rfl
@[simp] theorem State.endCommand_boundVis (s : State) (e : ErrCode) : (s.endCommand e).boundVis = s.boundVis := rfl
@[simp] theorem State.endCommand_lastErr (s : State) (e : ErrCode) : (s.endCommand e).lastErr = BitVec.ofNat 8 (errNumber e) := rfl
@[simp] theorem State.endCommand_errSticky (s : State) (e : ErrCode) : (s.endCommand e).errSticky = stickyAfter e s.errSticky := rfl
@[simp] theorem State.endCommand_busy (s : State) (e : ErrCode) : (s.endCommand e).busy = s.busy := rfl
@[simp] theorem State.endCommand_brOpen (s : State) (e : ErrCode) : (s.endCommand e).brOpen = s.brOpen := rfl
@[simp] theorem State.endCommand_brBase (s : State) (e : ErrCode) : (s.endCommand e).brBase = s.brBase := rfl
@[simp] theorem State.endCommand_brSize (s : State) (e : ErrCode) : (s.endCommand e).brSize = s.brSize := rfl
@[simp] theorem State.endCommand_brPos (s : State) (e : ErrCode) : (s.endCommand e).brPos = s.brPos := rfl
@[simp] theorem State.endCommand_nest (s : State) (e : ErrCode) : (s.endCommand e).nest = s.nest := rfl
@[simp] theorem State.endCommand_queue (s : State) (e : ErrCode) : (s.endCommand e).queue = s.queue := rfl
@[simp] theorem State.endCommand_amem (s : State) (e : ErrCode) : (s.endCommand e).amem = s.amem := rfl
@[simp] theorem State.endCommand_events (s : State) (e : ErrCode) : (s.endCommand e).events = s.events := rfl

/-! ### `State.takePacket` -/

@[simp] theorem State.takePacket_par (s : State) (rest : List Packet) : (s.takePacket rest).par = s.par := rfl
@[simp] theorem State.takePacket_orient (s : State) (rest : List Packet) : (s.takePacket rest).orient = s.orient := rfl
@[simp] theorem State.takePacket_origin (s : State) (rest : List Packet) : (s.takePacket rest).origin = s.origin := rfl
@[simp] theorem State.takePacket_scroll (s : State) (rest : List Packet) : (s.takePacket rest).scroll = s.scroll := rfl
@[simp] theorem State.takePacket_aa (s : State) (rest : List Packet) : (s.takePacket rest).aa = s.aa := rfl
@[simp] theorem State.takePacket_lineW (s : State) (rest : List Packet) : (s.takePacket rest).lineW = s.lineW := rfl
@[simp] theorem State.takePacket_fg (s : State) (rest : List Packet) : (s.takePacket rest).fg = s.fg := rfl
@[simp] theorem State.takePacket_bg (s : State) (rest : List Packet) : (s.takePacket rest).bg = s.bg := rfl
@[simp] theorem State.takePacket_fontValid (s : State) (rest : List Packet) : (s.takePacket rest).fontValid = s.fontValid := rfl
@[simp] theorem State.takePacket_fontBase (s : State) (rest : List Packet) : (s.takePacket rest).fontBase = s.fontBase := rfl
@[simp] theorem State.takePacket_fontSize (s : State) (rest : List Packet) : (s.takePacket rest).fontSize = s.fontSize := rfl
@[simp] theorem State.takePacket_fontType (s : State) (rest : List Packet) : (s.takePacket rest).fontType = s.fontType := rfl
@[simp] theorem State.takePacket_fontLh (s : State) (rest : List Packet) : (s.takePacket rest).fontLh = s.fontLh := rfl
@[simp] theorem State.takePacket_fontBl (s : State) (rest : List Packet) : (s.takePacket rest).fontBl = s.fontBl := rfl
@[simp] theorem State.takePacket_wrap (s : State) (rest : List Packet) : (s.takePacket rest).wrap = s.wrap := rfl
@[simp] theorem State.takePacket_wrapScroll (s : State) (rest : List Packet) : (s.takePacket rest).wrapScroll = s.wrapScroll := rfl
@[simp] theorem State.takePacket_marginL (s : State) (rest : List Packet) : (s.takePacket rest).marginL = s.marginL := rfl
@[simp] theorem State.takePacket_marginR (s : State) (rest : List Packet) : (s.takePacket rest).marginR = s.marginR := rfl
@[simp] theorem State.takePacket_marginB (s : State) (rest : List Packet) : (s.takePacket rest).marginB = s.marginB := rfl
@[simp] theorem State.takePacket_lineGap (s : State) (rest : List Packet) : (s.takePacket rest).lineGap = s.lineGap := rfl
@[simp] theorem State.takePacket_caretX (s : State) (rest : List Packet) : (s.takePacket rest).caretX = s.caretX := rfl
@[simp] theorem State.takePacket_caretY (s : State) (rest : List Packet) : (s.takePacket rest).caretY = s.caretY := rfl
@[simp] theorem State.takePacket_res (s : State) (rest : List Packet) : (s.takePacket rest).res = s.res := rfl
@[simp] theorem State.takePacket_boundX1 (s : State) (rest : List Packet) : (s.takePacket rest).boundX1 = s.boundX1 := rfl
@[simp] theorem State.takePacket_boundY1 (s : State) (rest : List Packet) : (s.takePacket rest).boundY1 = s.boundY1 := rfl
@[simp] theorem State.takePacket_boundX2 (s : State) (rest : List Packet) : (s.takePacket rest).boundX2 = s.boundX2 := rfl
@[simp] theorem State.takePacket_boundY2 (s : State) (rest : List Packet) : (s.takePacket rest).boundY2 = s.boundY2 := rfl
@[simp] theorem State.takePacket_boundVis (s : State) (rest : List Packet) : (s.takePacket rest).boundVis = s.boundVis := rfl
@[simp] theorem State.takePacket_lastErr (s : State) (rest : List Packet) : (s.takePacket rest).lastErr = s.lastErr := rfl
@[simp] theorem State.takePacket_errSticky (s : State) (rest : List Packet) : (s.takePacket rest).errSticky = s.errSticky := rfl
@[simp] theorem State.takePacket_busy (s : State) (rest : List Packet) : (s.takePacket rest).busy = true := rfl
@[simp] theorem State.takePacket_brOpen (s : State) (rest : List Packet) : (s.takePacket rest).brOpen = s.brOpen := rfl
@[simp] theorem State.takePacket_brBase (s : State) (rest : List Packet) : (s.takePacket rest).brBase = s.brBase := rfl
@[simp] theorem State.takePacket_brSize (s : State) (rest : List Packet) : (s.takePacket rest).brSize = s.brSize := rfl
@[simp] theorem State.takePacket_brPos (s : State) (rest : List Packet) : (s.takePacket rest).brPos = s.brPos := rfl
@[simp] theorem State.takePacket_nest (s : State) (rest : List Packet) : (s.takePacket rest).nest = s.nest := rfl
@[simp] theorem State.takePacket_queue (s : State) (rest : List Packet) : (s.takePacket rest).queue = rest := rfl
@[simp] theorem State.takePacket_amem (s : State) (rest : List Packet) : (s.takePacket rest).amem = s.amem := rfl
@[simp] theorem State.takePacket_events (s : State) (rest : List Packet) : (s.takePacket rest).events = s.events := rfl

/-! ### `State.settleBusy` -/

@[simp] theorem State.settleBusy_par (s : State) : (s.settleBusy).par = s.par := rfl
@[simp] theorem State.settleBusy_orient (s : State) : (s.settleBusy).orient = s.orient := rfl
@[simp] theorem State.settleBusy_origin (s : State) : (s.settleBusy).origin = s.origin := rfl
@[simp] theorem State.settleBusy_scroll (s : State) : (s.settleBusy).scroll = s.scroll := rfl
@[simp] theorem State.settleBusy_aa (s : State) : (s.settleBusy).aa = s.aa := rfl
@[simp] theorem State.settleBusy_lineW (s : State) : (s.settleBusy).lineW = s.lineW := rfl
@[simp] theorem State.settleBusy_fg (s : State) : (s.settleBusy).fg = s.fg := rfl
@[simp] theorem State.settleBusy_bg (s : State) : (s.settleBusy).bg = s.bg := rfl
@[simp] theorem State.settleBusy_fontValid (s : State) : (s.settleBusy).fontValid = s.fontValid := rfl
@[simp] theorem State.settleBusy_fontBase (s : State) : (s.settleBusy).fontBase = s.fontBase := rfl
@[simp] theorem State.settleBusy_fontSize (s : State) : (s.settleBusy).fontSize = s.fontSize := rfl
@[simp] theorem State.settleBusy_fontType (s : State) : (s.settleBusy).fontType = s.fontType := rfl
@[simp] theorem State.settleBusy_fontLh (s : State) : (s.settleBusy).fontLh = s.fontLh := rfl
@[simp] theorem State.settleBusy_fontBl (s : State) : (s.settleBusy).fontBl = s.fontBl := rfl
@[simp] theorem State.settleBusy_wrap (s : State) : (s.settleBusy).wrap = s.wrap := rfl
@[simp] theorem State.settleBusy_wrapScroll (s : State) : (s.settleBusy).wrapScroll = s.wrapScroll := rfl
@[simp] theorem State.settleBusy_marginL (s : State) : (s.settleBusy).marginL = s.marginL := rfl
@[simp] theorem State.settleBusy_marginR (s : State) : (s.settleBusy).marginR = s.marginR := rfl
@[simp] theorem State.settleBusy_marginB (s : State) : (s.settleBusy).marginB = s.marginB := rfl
@[simp] theorem State.settleBusy_lineGap (s : State) : (s.settleBusy).lineGap = s.lineGap := rfl
@[simp] theorem State.settleBusy_caretX (s : State) : (s.settleBusy).caretX = s.caretX := rfl
@[simp] theorem State.settleBusy_caretY (s : State) : (s.settleBusy).caretY = s.caretY := rfl
@[simp] theorem State.settleBusy_res (s : State) : (s.settleBusy).res = s.res := rfl
@[simp] theorem State.settleBusy_boundX1 (s : State) : (s.settleBusy).boundX1 = s.boundX1 := rfl
@[simp] theorem State.settleBusy_boundY1 (s : State) : (s.settleBusy).boundY1 = s.boundY1 := rfl
@[simp] theorem State.settleBusy_boundX2 (s : State) : (s.settleBusy).boundX2 = s.boundX2 := rfl
@[simp] theorem State.settleBusy_boundY2 (s : State) : (s.settleBusy).boundY2 = s.boundY2 := rfl
@[simp] theorem State.settleBusy_boundVis (s : State) : (s.settleBusy).boundVis = s.boundVis := rfl
@[simp] theorem State.settleBusy_lastErr (s : State) : (s.settleBusy).lastErr = s.lastErr := rfl
@[simp] theorem State.settleBusy_errSticky (s : State) : (s.settleBusy).errSticky = s.errSticky := rfl
@[simp] theorem State.settleBusy_busy (s : State) : (s.settleBusy).busy = !s.queue.isEmpty := rfl
@[simp] theorem State.settleBusy_brOpen (s : State) : (s.settleBusy).brOpen = s.brOpen := rfl
@[simp] theorem State.settleBusy_brBase (s : State) : (s.settleBusy).brBase = s.brBase := rfl
@[simp] theorem State.settleBusy_brSize (s : State) : (s.settleBusy).brSize = s.brSize := rfl
@[simp] theorem State.settleBusy_brPos (s : State) : (s.settleBusy).brPos = s.brPos := rfl
@[simp] theorem State.settleBusy_nest (s : State) : (s.settleBusy).nest = s.nest := rfl
@[simp] theorem State.settleBusy_queue (s : State) : (s.settleBusy).queue = s.queue := rfl
@[simp] theorem State.settleBusy_amem (s : State) : (s.settleBusy).amem = s.amem := rfl
@[simp] theorem State.settleBusy_events (s : State) : (s.settleBusy).events = s.events := rfl

/-- Inside a command's bracket a sub-operation adds its events and nothing else. -/
@[simp] theorem State.paint_enter_events (s : State) (evs : List Event) :
    (s.enter.paint evs).events = s.enter.events ++ evs := by
  simp [State.paint, State.emit, State.enter, State.leave]

/-- The whole effect of a sub-operation: its events, and a bracket only where the counter stood at 0. -/
theorem State.paint_events (s : State) (evs : List Event) :
    (s.paint evs).events =
      s.events ++ ((if s.nest = 0 then [.acq] else []) ++ evs ++ (if s.nest = 0 then [.rel] else [])) := by
  simp [State.paint, State.emit, State.enter, State.leave]

end Sys2Proof.Machine
end

