-- ==== Sys2Proof/Laws/Ops.lean ====
section
/-! SUPPORT. For each shared operation, once, everything it can do. -/

namespace Sys2Proof.Machine

/-- A command that completed changes LASTERR to 0 and nothing else. -/
theorem complete_eq (s : State) : complete s = .next { s with lastErr := 0#8 } := rfl

/-- A failure in phase 1 changes LASTERR and one sticky bit and nothing else. -/
theorem failEarly_eq (e : ErrCode) (s : State) (h : e ≠ .ok) : failEarly e s = .next (s.afterFailure e) := by
  cases e <;> first | exact absurd rfl h | rfl

/-- A failure in phase 2 also sets the counter to 0 and emits REL. -/
theorem failLate_eq (e : ErrCode) (s : State) (h : e ≠ .ok) :
    failLate e s = .next (({ s with nest := 0, events := s.events ++ [Event.rel] }).afterFailure e) := by
  cases e <;> first | exact absurd rfl h | rfl

/-- A drawing command of one sub-operation, entered with the counter at 0: its events in one bracket. -/
theorem drawing_paint (s : State) (evs : List Event) (h : s.nest = 0) :
    drawing (fun t => t.paint evs) s = .next (s.afterDrawing evs) := by
  simp [drawing, complete_eq, State.afterDrawing, State.paint, State.emit, State.enter, State.leave, h]

/-- The bracket of a drawing command whose rows or glyphs are already events. -/
theorem bracket_eq (s : State) (evs : List Event) (h : s.nest = 0) :
    (s.enter.paint evs).leave = { s with events := s.events ++ .acq :: (evs ++ [.rel]) } := by
  simp [State.paint, State.emit, State.enter, State.leave, h]

/-- What `scrollBy` does: nothing where the offset stays, else the new offset and its event. -/
theorem scrollBy_cases (s : State) (d : Int) :
    (((s.scroll + d) % s.par.devH).toNat = s.scroll ∧ s.scrollBy d = s) ∨
      (((s.scroll + d) % s.par.devH).toNat ≠ s.scroll ∧
        s.scrollBy d = { s with
          scroll := ((s.scroll + d) % s.par.devH).toNat
          events := s.events ++ [.scrollCmd ((s.scroll + d) % s.par.devH).toNat] }) := by
  by_cases h : ((s.scroll + d) % s.par.devH).toNat = s.scroll
  · exact .inl ⟨h, by simp [State.scrollBy, h]⟩
  · exact .inr ⟨h, by simp [State.scrollBy, State.emit, h]⟩

/-- The offset `scrollBy` leaves is in range (10_state.md R26). -/
theorem scrollBy_lt (s : State) (d : Int) (h : 0 < s.par.devH) (hs : s.scroll < s.par.devH) :
    (s.scrollBy d).scroll < s.par.devH := by
  have hm := Int.emod_lt_of_pos (s.scroll + d) (by exact_mod_cast h : (0 : Int) < s.par.devH)
  have h0 := Int.emod_nonneg (s.scroll + d) (by omega : (s.par.devH : Int) ≠ 0)
  rcases scrollBy_cases s d with ⟨_, e⟩ | ⟨_, e⟩ <;> rw [e]
  · exact hs
  · show ((s.scroll + d) % s.par.devH).toNat < s.par.devH
    omega

/-- BUSY is settled after a command that answered a next state, and after nothing else. -/
theorem settle_next (s : State) : settle (.next s) = .next s.settleBusy := rfl

/-- A read inside asset memory is a read of the listed bytes. -/
theorem memRead_inside (s : State) (a : Nat) (h : a < s.par.amemSize) : memRead s a = memLookup a s.amem := by
  simp [memRead, h]

/-- `BE16` is below `2 ^ 16`. -/
theorem be16_lt (s : State) (a : Nat) : be16 s a < 2 ^ 16 := by
  have h1 := (memRead s a).isLt
  have h2 := (memRead s (a + 1)).isLt
  unfold be16
  omega

/-- `BE24` is below `2 ^ 24`. -/
theorem be24_lt (s : State) (a : Nat) : be24 s a < 2 ^ 24 := by
  have h1 := (memRead s a).isLt
  have h2 := (memRead s (a + 1)).isLt
  have h3 := (memRead s (a + 2)).isLt
  unfold be24
  omega

/-- Reads look at the parameters and the asset bytes alone. -/
theorem memRead_congr (s t : State) (hp : t.par = s.par) (hm : t.amem = s.amem) (a : Nat) :
    memRead t a = memRead s a := by
  simp [memRead, hp, hm]

/-- The offsets of the stream positions add up over a concatenation. -/
theorem streamScan_append (p : Params) (xs ys : List Event) (pos : StreamPos) :
    streamScan p pos (xs ++ ys) = (streamScan p pos xs).bind fun q => streamScan p q ys := by
  induction xs generalizing pos with
  | nil => rfl
  | cons e es ih =>
    simp only [List.cons_append, streamScan]
    cases streamStep p pos e with
    | none => rfl
    | some q => exact ih q

end Sys2Proof.Machine
end

