-- ==== Sys2Proof/Laws/PerInstr.lean ====
section
/-! SUPPORT. A law for each command of its encoding: the header word carries its opcode, whatever its flags and
operands (30_encoding.md R91, R100). -/

namespace Sys2Proof.Laws

/-- The opcode of a header word is the one it was made with. -/
theorem packetOp_headerWord (op : Nat) (f0 f1 : Bool) (w1 w2 w3 w4 w5 w6 w7 : Half) (h : op < 256) :
    Machine.packetOp ⟨Machine.headerWord op f0 f1, w1, w2, w3, w4, w5, w6, w7⟩ = op := by
  cases f0 <;> cases f1 <;>
    simp only [Machine.packetOp, Machine.headerWord, BitVec.toNat_ofNat, Bool.toNat_true, Bool.toNat_false] <;> omega

/-- Every opcode fits the low byte of the header word (R91). -/
theorem opcode_lt (i : Instr) : i.opcode < 256 := by
  cases i <;> simp only [Instr.opcode] <;> omega

/-- The header of a command's packet carries the command's opcode. -/
def OpcodeOfEncode.Statement (i : Instr) : Prop := Machine.packetOp (encode i) = i.opcode

theorem OpcodeOfEncode.nop : OpcodeOfEncode.Statement (.nop) :=
  packetOp_headerWord _ _ _ _ _ _ _ _ _ _ (opcode_lt _)

theorem OpcodeOfEncode.setFgRgb (r g b : Byte) : OpcodeOfEncode.Statement (.setFgRgb r g b) :=
  packetOp_headerWord _ _ _ _ _ _ _ _ _ _ (opcode_lt _)

theorem OpcodeOfEncode.setBgRgb (r g b : Byte) : OpcodeOfEncode.Statement (.setBgRgb r g b) :=
  packetOp_headerWord _ _ _ _ _ _ _ _ _ _ (opcode_lt _)

theorem OpcodeOfEncode.setFgPacked (p : Half) : OpcodeOfEncode.Statement (.setFgPacked p) :=
  packetOp_headerWord _ _ _ _ _ _ _ _ _ _ (opcode_lt _)

theorem OpcodeOfEncode.setBgPacked (p : Half) : OpcodeOfEncode.Statement (.setBgPacked p) :=
  packetOp_headerWord _ _ _ _ _ _ _ _ _ _ (opcode_lt _)

theorem OpcodeOfEncode.setLineWidth (width : Nat) : OpcodeOfEncode.Statement (.setLineWidth width) :=
  packetOp_headerWord _ _ _ _ _ _ _ _ _ _ (opcode_lt _)

theorem OpcodeOfEncode.setAntialias (on : Bool) : OpcodeOfEncode.Statement (.setAntialias on) :=
  packetOp_headerWord _ _ _ _ _ _ _ _ _ _ (opcode_lt _)

theorem OpcodeOfEncode.setOrientation (o : Nat) : OpcodeOfEncode.Statement (.setOrientation o) :=
  packetOp_headerWord _ _ _ _ _ _ _ _ _ _ (opcode_lt _)

theorem OpcodeOfEncode.setOrigin (relative : Bool) : OpcodeOfEncode.Statement (.setOrigin relative) :=
  packetOp_headerWord _ _ _ _ _ _ _ _ _ _ (opcode_lt _)

theorem OpcodeOfEncode.scroll (dy : Int) : OpcodeOfEncode.Statement (.scroll dy) :=
  packetOp_headerWord _ _ _ _ _ _ _ _ _ _ (opcode_lt _)

theorem OpcodeOfEncode.setFont (base size : Nat) : OpcodeOfEncode.Statement (.setFont base size) :=
  packetOp_headerWord _ _ _ _ _ _ _ _ _ _ (opcode_lt _)

theorem OpcodeOfEncode.setTextWrap (wrap wrapscroll : Bool) (left right bottom gap : Int) : OpcodeOfEncode.Statement (.setTextWrap wrap wrapscroll left right bottom gap) :=
  packetOp_headerWord _ _ _ _ _ _ _ _ _ _ (opcode_lt _)

theorem OpcodeOfEncode.clearErr : OpcodeOfEncode.Statement (.clearErr) :=
  packetOp_headerWord _ _ _ _ _ _ _ _ _ _ (opcode_lt _)

theorem OpcodeOfEncode.drawPixel (x y : Int) : OpcodeOfEncode.Statement (.drawPixel x y) :=
  packetOp_headerWord _ _ _ _ _ _ _ _ _ _ (opcode_lt _)

theorem OpcodeOfEncode.fillRect (x y w h : Int) : OpcodeOfEncode.Statement (.fillRect x y w h) :=
  packetOp_headerWord _ _ _ _ _ _ _ _ _ _ (opcode_lt _)

theorem OpcodeOfEncode.hline (x1 y x2 : Int) : OpcodeOfEncode.Statement (.hline x1 y x2) :=
  packetOp_headerWord _ _ _ _ _ _ _ _ _ _ (opcode_lt _)

theorem OpcodeOfEncode.vline (x y1 y2 : Int) : OpcodeOfEncode.Statement (.vline x y1 y2) :=
  packetOp_headerWord _ _ _ _ _ _ _ _ _ _ (opcode_lt _)

theorem OpcodeOfEncode.drawRect (x y w h : Int) : OpcodeOfEncode.Statement (.drawRect x y w h) :=
  packetOp_headerWord _ _ _ _ _ _ _ _ _ _ (opcode_lt _)

theorem OpcodeOfEncode.drawLine (x1 y1 x2 y2 : Int) : OpcodeOfEncode.Statement (.drawLine x1 y1 x2 y2) :=
  packetOp_headerWord _ _ _ _ _ _ _ _ _ _ (opcode_lt _)

theorem OpcodeOfEncode.drawCircle (xc yc r : Int) : OpcodeOfEncode.Statement (.drawCircle xc yc r) :=
  packetOp_headerWord _ _ _ _ _ _ _ _ _ _ (opcode_lt _)

theorem OpcodeOfEncode.drawOval (x y w h : Int) : OpcodeOfEncode.Statement (.drawOval x y w h) :=
  packetOp_headerWord _ _ _ _ _ _ _ _ _ _ (opcode_lt _)

theorem OpcodeOfEncode.drawRoundRect (x y w h r : Int) : OpcodeOfEncode.Statement (.drawRoundRect x y w h r) :=
  packetOp_headerWord _ _ _ _ _ _ _ _ _ _ (opcode_lt _)

theorem OpcodeOfEncode.fillRoundRect (x y w h r : Int) : OpcodeOfEncode.Statement (.fillRoundRect x y w h r) :=
  packetOp_headerWord _ _ _ _ _ _ _ _ _ _ (opcode_lt _)

theorem OpcodeOfEncode.drawText (erase haskern : Bool) (x y : Int) (text n kern : Nat) : OpcodeOfEncode.Statement (.drawText erase haskern x y text n kern) :=
  packetOp_headerWord _ _ _ _ _ _ _ _ _ _ (opcode_lt _)

theorem OpcodeOfEncode.drawImage (x y : Int) (base size : Nat) : OpcodeOfEncode.Statement (.drawImage x y base size) :=
  packetOp_headerWord _ _ _ _ _ _ _ _ _ _ (opcode_lt _)

theorem OpcodeOfEncode.measureText (haskern : Bool) (text n kern : Nat) : OpcodeOfEncode.Statement (.measureText haskern text n kern) :=
  packetOp_headerWord _ _ _ _ _ _ _ _ _ _ (opcode_lt _)

theorem OpcodeOfEncode.brOpen (base size : Nat) : OpcodeOfEncode.Statement (.brOpen base size) :=
  packetOp_headerWord _ _ _ _ _ _ _ _ _ _ (opcode_lt _)

theorem OpcodeOfEncode.brBit : OpcodeOfEncode.Statement (.brBit) :=
  packetOp_headerWord _ _ _ _ _ _ _ _ _ _ (opcode_lt _)

theorem OpcodeOfEncode.brBits (n : Nat) : OpcodeOfEncode.Statement (.brBits n) :=
  packetOp_headerWord _ _ _ _ _ _ _ _ _ _ (opcode_lt _)

theorem OpcodeOfEncode.brNum : OpcodeOfEncode.Statement (.brNum) :=
  packetOp_headerWord _ _ _ _ _ _ _ _ _ _ (opcode_lt _)

theorem OpcodeOfEncode.blendA (tofg : Bool) (alpha : Int) : OpcodeOfEncode.Statement (.blendA tofg alpha) :=
  packetOp_headerWord _ _ _ _ _ _ _ _ _ _ (opcode_lt _)

theorem OpcodeOfEncode.blendO (opacity : Nat) : OpcodeOfEncode.Statement (.blendO opacity) :=
  packetOp_headerWord _ _ _ _ _ _ _ _ _ _ (opcode_lt _)

theorem OpcodeOfEncode.xformClip (physical : Bool) (x1 y1 x2 y2 : Int) : OpcodeOfEncode.Statement (.xformClip physical x1 y1 x2 y2) :=
  packetOp_headerWord _ _ _ _ _ _ _ _ _ _ (opcode_lt _)

end Sys2Proof.Laws
end

