-- ==== Sys2Proof/Laws/Stream.lean ====
section
/-! SUPPORT. Which pieces of a drawing keep the event stream in shape: a piece that starts and ends inside the
bracket with no pixel owing. -/

namespace Sys2Proof.Machine

/-- A piece of a drawing: inside the bracket, every window it declares is filled exactly. -/
def windowsFilled (p : Params) (evs : List Event) : Prop := streamScan p ⟨true, 0⟩ evs = some ⟨true, 0⟩

theorem windowsFilled_nil (p : Params) : windowsFilled p [] := rfl

theorem windowsFilled_append {p : Params} {xs ys : List Event} (hx : windowsFilled p xs) (hy : windowsFilled p ys) :
    windowsFilled p (xs ++ ys) := by
  unfold windowsFilled at *
  rw [streamScan_append, hx]
  exact hy

theorem windowsFilled_flatMap {α : Type} {p : Params} (xs : List α) (f : α → List Event)
    (h : ∀ x ∈ xs, windowsFilled p (f x)) : windowsFilled p (xs.flatMap f) := by
  induction xs with
  | nil => exact windowsFilled_nil p
  | cons x xs ih =>
    rw [List.flatMap_cons]
    exact windowsFilled_append (h x (by simp)) (ih fun y hy => h y (by simp [hy]))

/-- `n` pixels leave `n` fewer to come. -/
theorem streamScan_pixels (p : Params) (cs : List Half) (k : Nat) :
    streamScan p ⟨true, cs.length + k⟩ (cs.map .pix) = some ⟨true, k⟩ := by
  induction cs with
  | nil => simp [streamScan]
  | cons c cs ih =>
    have : streamStep p ⟨true, (c :: cs).length + k⟩ (.pix c) = some ⟨true, cs.length + k⟩ := by
      simp only [streamStep, List.length_cons]
      rw [if_pos ⟨trivial, by omega⟩]
      congr 2
      omega
    simp only [List.map_cons, streamScan, this]
    exact ih

/-- A region on the device followed by exactly its pixels. -/
theorem windowsFilled_region (p : Params) (x1 y1 x2 y2 : Nat) (cs : List Half) (hx : x1 ≤ x2) (hx2 : x2 < p.devW)
    (hy : y1 ≤ y2) (hy2 : y2 < p.devH) (hn : cs.length = (x2 - x1 + 1) * (y2 - y1 + 1)) :
    windowsFilled p (.region x1 y1 x2 y2 :: cs.map .pix) := by
  have h := streamScan_pixels p cs 0
  simp only [Nat.add_zero, hn] at h
  simp only [windowsFilled, streamScan, streamStep, hx, hx2, hy, hy2, and_self, if_true]
  exact h

theorem windowsFilled_pixel (s : State) (c : Color) (x y : Int) (hW : 0 < s.par.devW) (hH : 0 < s.par.devH) :
    windowsFilled s.par (pixel s c x y) := by
  rcases pixel_cases s c x y hW hH with h | ⟨px, py, hx, hy, h⟩ <;> rw [h]
  · exact windowsFilled_nil _
  · exact windowsFilled_region s.par px py px py [c.p] (le_refl _) hx (le_refl _) hy (by simp)

theorem windowsFilled_regionRun (p : Params) (c : Color) (x1 y1 x2 y2 : Int) (h1 : 0 ≤ x1) (h2 : x1 ≤ x2)
    (h3 : x2 < p.devW) (h4 : 0 ≤ y1) (h5 : y1 ≤ y2) (h6 : y2 < p.devH) :
    windowsFilled p (regionRun c x1 y1 x2 y2) := by
  have hx : x2.toNat - x1.toNat + 1 = (x2 - x1 + 1).toNat := by omega
  have hy : y2.toNat - y1.toNat + 1 = (y2 - y1 + 1).toNat := by omega
  have hn : ((x2 - x1 + 1) * (y2 - y1 + 1)).toNat = (x2.toNat - x1.toNat + 1) * (y2.toNat - y1.toNat + 1) := by
    rw [hx, hy, Int.toNat_mul (by omega) (by omega)]
  have hpos : 1 ≤ (x2.toNat - x1.toNat + 1) * (y2.toNat - y1.toNat + 1) :=
    Nat.mul_pos (Nat.succ_pos _) (Nat.succ_pos _)
  simp only [windowsFilled, regionRun, streamScan, streamStep]
  rw [if_pos ⟨trivial, by omega, by omega, by omega, by omega⟩]
  simp only
  rw [if_pos ⟨trivial, by omega, by omega⟩]
  simp [hn]

theorem windowsFilled_fill (s : State) (c : Color) (x1 y1 x2 y2 : Int) (hW : 0 < s.par.devW) (hH : 0 < s.par.devH) :
    windowsFilled s.par (fill s c x1 y1 x2 y2) := by
  rcases fill_cases s c x1 y1 x2 y2 with h | ⟨b, hb, h⟩
  · rw [h]; exact windowsFilled_nil _
  · obtain ⟨g1, g2, g3, g4, g5, g6⟩ := toDevice_bounds s _ b hW hH hb
    have ha := scrollShift_range s b.y1 g4 (by omega)
    have hb' := scrollShift_range s b.y2 (by omega) g6
    rcases h with ⟨hle, h⟩ | ⟨hlt, h⟩ <;> rw [h]
    · exact windowsFilled_regionRun s.par c _ _ _ _ g1 g2 g3 ha.1 hle hb'.2
    · exact windowsFilled_append
        (windowsFilled_regionRun s.par c _ _ _ _ g1 g2 g3 ha.1 (by omega) (by omega))
        (windowsFilled_regionRun s.par c _ _ _ _ g1 g2 g3 (le_refl _) hb'.1 hb'.2)

end Sys2Proof.Machine
end

