-- ==== Sys2Proof/Laws/Text.lean ====
section
/-! SUPPORT. What the pieces of DRAW_TEXT can do to the state: scroll, append events, nothing else;
and how many events a piece of a glyph run is. -/

namespace Sys2Proof.Machine

/-- Two states that differ at most in scroll offset and event stream. -/
def sameButScroll (s t : State) : Prop := t = { s with scroll := t.scroll, events := t.events }

theorem sameButScroll_refl (s : State) : sameButScroll s s := rfl

theorem sameButScroll_trans {s t u : State} (h1 : sameButScroll s t) (h2 : sameButScroll t u) :
    sameButScroll s u := by
  unfold sameButScroll at *
  rw [h1] at h2
  exact h2

theorem sameButScroll_paint (s : State) (evs : List Event) : sameButScroll s (s.paint evs) := rfl

theorem sameButScroll_scrollBy (s : State) (d : Int) : sameButScroll s (s.scrollBy d) := by
  rcases scrollBy_cases s d with ⟨_, h⟩ | ⟨_, h⟩ <;> rw [h] <;> rfl

/-- The scroll step of a line break scrolls and paints, and nothing else (47_glyph.md R296). -/
theorem wrapScrollStep_frame (r : TextRun) : sameButScroll r.st (wrapScrollStep r).st :=
  sameButScroll_trans (sameButScroll_scrollBy _ _) (sameButScroll_paint _ _)

theorem newline_frame (r : TextRun) : sameButScroll r.st (newline r).st := by
  unfold newline
  dsimp only
  split
  · exact wrapScrollStep_frame ⟨r.st, _, _⟩
  · exact sameButScroll_refl _

/-- The wrap step hands on the same run, or the run after a line break (R293, R294). -/
theorem wrapStep_cases (t : TextArgs) (i : Nat) (r : TextRun) :
    wrapStep t i r = .trunc ∨ wrapStep t i r = .skip (newline r) ∨ wrapStep t i r = .place r ∨
      wrapStep t i r = .place (newline r) := by
  unfold wrapStep
  split
  · exact .inr (.inr (.inl rfl))
  · split
    · exact .inr (.inl rfl)
    · split
      · exact .inl rfl
      · split
        · exact .inr (.inr (.inr rfl))
        · exact .inr (.inr (.inl rfl))

theorem placeGlyph_frame (t : TextArgs) (i : Nat) (g : Glyph) (r : TextRun) :
    sameButScroll r.st (placeGlyph t i g r).st := sameButScroll_paint _ _

/-- A piece of a run is at most 4 events, and at most 2 where the shifted rows cannot wrap (R284, R300). -/
theorem glyphSeg_length_le (s : State) (d : GlyphDraw) (u n v : Int) :
    (glyphSeg s d u n v).length ≤ 4 ∧
      (s.origin = false ∨ s.scroll = 0 → 0 < s.par.devW → 0 < s.par.devH → (glyphSeg s d u n v).length ≤ 2) := by
  unfold glyphSeg
  split <;> exact fill_length_le ..

/-- A text leaves everything but scroll offset and events as it was, however it ends (R293). -/
theorem textLoop_frame (t : TextArgs) (more : Nat) :
    ∀ (i : Nat) (r : TextRun), sameButScroll r.st (textLoop t more i r).1.st := by
  induction more with
  | zero => intro i r; exact sameButScroll_refl _
  | succ more ih =>
    intro i r
    unfold textLoop
    split
    · exact sameButScroll_refl _
    · rcases wrapStep_cases t i r with h | h | h | h <;> rw [h]
      · exact sameButScroll_refl _
      · exact sameButScroll_trans (newline_frame r) (ih _ _)
      · dsimp only
        split
        · exact sameButScroll_refl _
        · exact ih _ _
        · exact sameButScroll_trans (placeGlyph_frame t i _ r) (ih _ _)
      · dsimp only
        split
        · exact newline_frame r
        · exact sameButScroll_trans (newline_frame r) (ih _ _)
        · exact sameButScroll_trans (newline_frame r) (sameButScroll_trans (placeGlyph_frame t i _ _) (ih _ _))

/-! ### What the decoder of text and glyphs looks at -/

/-- Two states with the same parameters, the same asset bytes and the same font slice. -/
structure SameFont (s t : State) : Prop where
  par : t.par = s.par
  amem : t.amem = s.amem
  base : t.fontBase = s.fontBase
  size : t.fontSize = s.fontSize

theorem SameFont.of_sameButScroll {s t : State} (h : sameButScroll s t) : SameFont s t := by
  unfold sameButScroll at h
  constructor <;> rw [h]

theorem SameFont.be16 {s t : State} (h : SameFont s t) (a : Nat) : Machine.be16 t a = Machine.be16 s a := by
  simp only [Machine.be16, memRead_congr s t h.par h.amem]

theorem SameFont.fontHalf {s t : State} (h : SameFont s t) (k : Nat) :
    Machine.fontHalf t k = Machine.fontHalf s k := by
  simp only [Machine.fontHalf, h.base, h.be16]

theorem SameFont.glyphAt {s t : State} (h : SameFont s t) (p rl : Nat) :
    Machine.glyphAt t p rl = Machine.glyphAt s p rl := by
  simp only [Machine.glyphAt, h.fontHalf, fontByte, h.base, memRead_congr s t h.par h.amem]

/-- The scan of the glyph table looks at the font slice alone (47_glyph.md R274). -/
theorem SameFont.lookupGlyph {s t : State} (h : SameFont s t) (c : Nat) :
    Machine.lookupGlyph t c = Machine.lookupGlyph s c := by
  have loop : ∀ fuel p, lookupLoop t c fuel p = lookupLoop s c fuel p := by
    intro fuel
    induction fuel with
    | zero => intro p; rfl
    | succ fuel ih => intro p; simp only [lookupLoop, h.size, h.fontHalf, h.glyphAt, ih]
  simp only [Machine.lookupGlyph, h.size, loop]

/-- A character code looks at the address of the text alone (R276). -/
theorem SameFont.charAt {s t : State} (h : SameFont s t) (a b : TextArgs) (hab : b.text = a.text) (i : Nat) :
    Machine.charAt t b i = Machine.charAt s a i := by
  simp only [Machine.charAt, hab, h.be16]

/-- Kerning looks at the kerning operands alone (R277). -/
theorem SameFont.kernAt {s t : State} (h : SameFont s t) (a b : TextArgs) (hk : b.haskern = a.haskern)
    (hb : b.kern = a.kern) (i : Nat) : Machine.kernAt t b i = Machine.kernAt s a i := by
  have byte : ∀ k, kernByte t b k = kernByte s a k := by
    intro k; simp only [kernByte, hb, h.par, memRead_congr s t h.par h.amem]
  have loop : ∀ more k last, kernLoop t b more k last = kernLoop s a more k last := by
    intro more
    induction more with
    | zero => intro k last; rfl
    | succ more ih => intro k last; simp only [kernLoop, byte, ih, h.par]
  simp only [Machine.kernAt, hk, loop]

/-- The advance looks at text, kerning and font alone, in painting and in measuring (R278). -/
theorem SameFont.advance {s t : State} (h : SameFont s t) (a b : TextArgs) (ht : b.text = a.text)
    (hk : b.haskern = a.haskern) (hb : b.kern = a.kern) (i : Nat) : Machine.advance t b i = Machine.advance s a i := by
  simp only [Machine.advance, h.charAt a b ht, h.lookupGlyph, h.kernAt a b hk hb]

/-- A glyph's events look at everything but the nesting counter and the events emitted before (R279 to R289). -/
theorem glyphEvents_redo (s : State) (n : Nat) (e : List Event) (f : Color) (g : Glyph) (gx gy : Int) :
    glyphEvents { s with nest := n, events := e } f g gx gy = glyphEvents s f g gx gy := by
  have run : ∀ d on fuel ln c,
      glyphRun { s with nest := n, events := e } d on fuel ln c = glyphRun s d on fuel ln c := by
    intro d on fuel
    induction fuel with
    | zero => intro ln c; rfl
    | succ fuel ih => intro ln c; simp only [glyphRun, ih]; rfl
  have body : ∀ d one₁ one₂, (∀ b c, one₁ b c = one₂ b c) → ∀ more k c,
      bodyLoop { s with nest := n, events := e } d one₁ more k c = bodyLoop s d one₂ more k c := by
    intro d one₁ one₂ h more
    induction more with
    | zero => intro k c; rfl
    | succ more ih => intro k c; simp only [bodyLoop, h, ih]; rfl
  have mask : ∀ d b c, maskRunByte { s with nest := n, events := e } d b c = maskRunByte s d b c := fun d b c =>
    run d _ _ _ c
  have cover : ∀ d b c, coverageByte { s with nest := n, events := e } d b c = coverageByte s d b c := by
    intro d b c
    unfold coverageByte takeRun
    rw [run]
    rfl
  have pick : ∀ d, glyphBody { s with nest := n, events := e } d = glyphBody s d := by
    intro d
    unfold glyphBody
    rw [body d _ _ (mask d), body d _ _ (cover d)]
    rfl
  exact if_congr Iff.rfl rfl (pick _)

end Sys2Proof.Machine
end

