-- ==== Sys2Proof/Tests/Slice0.lean ====
section
/-! SUPPORT. Tests. Every expected value is taken from spec/ (the rule or the vector of 95_test_vectors.md is
named); packets are written out from the formats of 30_encoding.md R99 and the opcodes of R100. -/

namespace Sys2Proof.Tests

open Sys2Proof Sys2Proof.Machine

set_option Elab.async false

/-! ### Helpers -/

/-- The state that an outcome goes on with. -/
def goesOn : Host.Outcome State Fault Refusal → Option State
  | .next t => some t
  | .fault _ => none
  | .refused _ => none

/-- A field of the state after one command. -/
def seen {α : Type} (i : Instr) (s : State) (f : State → α) : Option α := (goesOn (exec i s)).map f

/-- The events that one command appends to an empty stream, and its error code. -/
def shown (i : Instr) (s : State) : Option (List Event × Byte) :=
  seen i { s with events := [] } fun t => (t.events, t.lastErr)

/-- Asset memory with bytes put at an address. -/
def putBytes (a : Nat) : List Byte → Memory → Memory
  | [], m => m
  | b :: bs, m => putBytes (a + 1) bs (memInsert a b m)

/-- The reset state with bytes at an address of asset memory. -/
def withBytes (a : Nat) (bs : List Byte) : State := { State.reset with amem := putBytes a bs [] }

/-- The pair of events of one pixel. -/
def dot (x y : Nat) (c : Half) : List Event := [.region x y x y, .pix c]

/-- The pair of events of one filled region. -/
def block (x1 y1 x2 y2 : Nat) (c : Half) (n : Nat) : List Event := [.region x1 y1 x2 y2, .run c n]

/-- What a drawing command that completes shows. -/
def bracketed (evs : List (List Event)) : Option (List Event × Byte) := some (.acq :: (evs.flatten ++ [.rel]), 0#8)

/-- White dots. -/
def dots (ps : List (Nat × Nat)) : List (List Event) := ps.map fun p => dot p.1 p.2 0xFFFF#16

/-! ### WellFormed refuses an ill-formed term, operand by operand (30_encoding.md R96 to R98) -/

theorem test_wf_setLineWidth : (Instr.setLineWidth 65536).wf = false := by decide
theorem test_wf_setOrientation : (Instr.setOrientation 65536).wf = false := by decide
theorem test_wf_scroll : (Instr.scroll 32768).wf = false ∧ (Instr.scroll (-32769)).wf = false := by decide
theorem test_wf_setFont : (Instr.setFont (2 ^ 32) 0).wf = false ∧ (Instr.setFont 0 (2 ^ 32)).wf = false := by
  decide
theorem test_wf_setTextWrap : (Instr.setTextWrap true true 32768 0 0 0).wf = false ∧
    (Instr.setTextWrap true true 0 (-32769) 0 0).wf = false ∧
    (Instr.setTextWrap true true 0 0 32768 0).wf = false ∧
    (Instr.setTextWrap true true 0 0 0 (-32769)).wf = false := by decide
theorem test_wf_drawPixel : (Instr.drawPixel 32768 0).wf = false ∧ (Instr.drawPixel 0 (-32769)).wf = false := by
  decide
theorem test_wf_fillRect : (Instr.fillRect 32768 0 1 1).wf = false ∧ (Instr.fillRect 0 (-32769) 1 1).wf = false ∧
    (Instr.fillRect 0 0 32768 1).wf = false ∧ (Instr.fillRect 0 0 1 32768).wf = false := by decide
theorem test_wf_hline : (Instr.hline 32768 0 0).wf = false ∧ (Instr.hline 0 32768 0).wf = false ∧
    (Instr.hline 0 0 (-32769)).wf = false := by decide
theorem test_wf_vline : (Instr.vline 32768 0 0).wf = false ∧ (Instr.vline 0 32768 0).wf = false ∧
    (Instr.vline 0 0 (-32769)).wf = false := by decide
theorem test_wf_drawRect : (Instr.drawRect 32768 0 1 1).wf = false ∧ (Instr.drawRect 0 32768 1 1).wf = false ∧
    (Instr.drawRect 0 0 32768 1).wf = false ∧ (Instr.drawRect 0 0 1 (-32769)).wf = false := by decide
theorem test_wf_drawLine : (Instr.drawLine 32768 0 0 0).wf = false ∧ (Instr.drawLine 0 32768 0 0).wf = false ∧
    (Instr.drawLine 0 0 32768 0).wf = false ∧ (Instr.drawLine 0 0 0 (-32769)).wf = false := by decide
theorem test_wf_drawCircle : (Instr.drawCircle 32768 0 0).wf = false ∧ (Instr.drawCircle 0 32768 0).wf = false ∧
    (Instr.drawCircle 0 0 (-32769)).wf = false := by decide
theorem test_wf_drawOval : (Instr.drawOval 32768 0 1 1).wf = false ∧ (Instr.drawOval 0 32768 1 1).wf = false ∧
    (Instr.drawOval 0 0 32768 1).wf = false ∧ (Instr.drawOval 0 0 1 (-32769)).wf = false := by decide
theorem test_wf_drawRoundRect : (Instr.drawRoundRect 32768 0 1 1 1).wf = false ∧
    (Instr.drawRoundRect 0 32768 1 1 1).wf = false ∧ (Instr.drawRoundRect 0 0 32768 1 1).wf = false ∧
    (Instr.drawRoundRect 0 0 1 32768 1).wf = false ∧ (Instr.drawRoundRect 0 0 1 1 (-32769)).wf = false := by decide
theorem test_wf_fillRoundRect : (Instr.fillRoundRect 32768 0 1 1 1).wf = false ∧
    (Instr.fillRoundRect 0 32768 1 1 1).wf = false ∧ (Instr.fillRoundRect 0 0 32768 1 1).wf = false ∧
    (Instr.fillRoundRect 0 0 1 32768 1).wf = false ∧ (Instr.fillRoundRect 0 0 1 1 (-32769)).wf = false := by decide
theorem test_wf_drawText : (Instr.drawText true true 32768 0 0 0 0).wf = false ∧
    (Instr.drawText true true 0 (-32769) 0 0 0).wf = false ∧
    (Instr.drawText true true 0 0 (2 ^ 32) 0 0).wf = false ∧
    (Instr.drawText true true 0 0 0 65536 0).wf = false ∧
    (Instr.drawText true true 0 0 0 0 (2 ^ 32)).wf = false := by decide
theorem test_wf_drawImage : (Instr.drawImage 32768 0 0 0).wf = false ∧ (Instr.drawImage 0 (-32769) 0 0).wf = false ∧
    (Instr.drawImage 0 0 (2 ^ 32) 0).wf = false ∧ (Instr.drawImage 0 0 0 (2 ^ 32)).wf = false := by decide
theorem test_wf_measureText : (Instr.measureText true (2 ^ 32) 0 0).wf = false ∧
    (Instr.measureText true 0 65536 0).wf = false ∧ (Instr.measureText true 0 0 (2 ^ 32)).wf = false := by decide
theorem test_wf_brOpen : (Instr.brOpen (2 ^ 32) 0).wf = false ∧ (Instr.brOpen 0 (2 ^ 32)).wf = false := by decide
theorem test_wf_brBits : (Instr.brBits 65536).wf = false := by decide
theorem test_wf_blendA : (Instr.blendA true 32768).wf = false ∧ (Instr.blendA true (-32769)).wf = false := by decide
theorem test_wf_blendO : (Instr.blendO 65536).wf = false := by decide
theorem test_wf_xformClip : (Instr.xformClip true 32768 0 0 0).wf = false ∧
    (Instr.xformClip true 0 32768 0 0).wf = false ∧ (Instr.xformClip true 0 0 (-32769) 0).wf = false ∧
    (Instr.xformClip true 0 0 0 (-32769)).wf = false := by decide

/-! ### Decoding: one packet a command, written out from 30_encoding.md R99, R100 and 95_test_vectors.md -/

theorem test_decode_nop : decode ⟨0xFF00, 0xFFFF, 0xFFFF, 0xFFFF, 0xFFFF, 0xFFFF, 0xFFFF, 0xFFFF⟩ = .ok .nop := by
  decide
theorem test_decode_setFgRgb : decode ⟨0x0001, 0x0108, 0x0204, 0x0309, 0, 0, 0, 0⟩ = .ok (.setFgRgb 8 4 9) := by
  decide
theorem test_decode_setBgRgb : decode ⟨0x0002, 0x0012, 0x0034, 0x0056, 0, 0, 0, 0⟩ =
    .ok (.setBgRgb 0x12 0x34 0x56) := by decide
theorem test_decode_setFgPacked : decode ⟨0x0003, 0xF800, 0, 0, 0, 0, 0, 0⟩ = .ok (.setFgPacked 0xF800) := by decide
theorem test_decode_setBgPacked : decode ⟨0x0004, 0x8410, 0, 0, 0, 0, 0, 0⟩ = .ok (.setBgPacked 0x8410) := by decide
theorem test_decode_setLineWidth : decode ⟨0x0005, 0x0100, 0, 0, 0, 0, 0, 0⟩ = .ok (.setLineWidth 256) := by decide
theorem test_decode_setAntialias : decode ⟨0x0106, 0, 0, 0, 0, 0, 0, 0⟩ = .ok (.setAntialias true) ∧
    decode ⟨0xFE06, 0, 0, 0, 0, 0, 0, 0⟩ = .ok (.setAntialias false) := by decide
theorem test_decode_setOrientation : decode ⟨0x0007, 0x0003, 0, 0, 0, 0, 0, 0⟩ = .ok (.setOrientation 3) := by decide
theorem test_decode_setOrigin : decode ⟨0x0108, 0, 0, 0, 0, 0, 0, 0⟩ = .ok (.setOrigin true) := by decide
theorem test_decode_scroll : decode ⟨0x0009, 0xFEBF, 0, 0, 0, 0, 0, 0⟩ = .ok (.scroll (-321)) := by decide
theorem test_decode_setFont : decode ⟨0x000A, 0x0100, 0x0002, 0x0034, 0x0001, 0, 0, 0⟩ =
    .ok (.setFont 0x20100 0x10034) := by decide
theorem test_decode_setTextWrap : decode ⟨0x020B, 0x0002, 0x00C8, 0x012C, 0xFFFD, 0, 0, 0⟩ =
    .ok (.setTextWrap false true 2 200 300 (-3)) := by decide
theorem test_decode_clearErr : decode ⟨0x000C, 0, 0, 0, 0, 0, 0, 0⟩ = .ok .clearErr := by decide
theorem test_decode_drawPixel : decode ⟨0x0010, 0x00EF, 0x8000, 0, 0, 0, 0, 0⟩ =
    .ok (.drawPixel 239 (-32768)) := by decide
theorem test_decode_fillRect : decode ⟨0x0011, 0x000A, 0x0014, 0x0005, 0x0003, 0, 0, 0⟩ =
    .ok (.fillRect 10 20 5 3) := by decide
theorem test_decode_hline : decode ⟨0x0012, 0x001E, 0x0004, 0x000A, 0, 0, 0, 0⟩ = .ok (.hline 30 4 10) := by decide
theorem test_decode_vline : decode ⟨0x0013, 0x0003, 0xFFFB, 0x0002, 0, 0, 0, 0⟩ = .ok (.vline 3 (-5) 2) := by decide
theorem test_decode_drawRect : decode ⟨0x0014, 0x0001, 0x0002, 0x0004, 0x0003, 0, 0, 0⟩ =
    .ok (.drawRect 1 2 4 3) := by decide
theorem test_decode_drawLine : decode ⟨0x0015, 0xFFFE, 0xFFFF, 0x0002, 0x0001, 0, 0, 0⟩ =
    .ok (.drawLine (-2) (-1) 2 1) := by decide
theorem test_decode_drawCircle : decode ⟨0x0016, 0x000A, 0x000B, 0xFFFF, 0, 0, 0, 0⟩ =
    .ok (.drawCircle 10 11 (-1)) := by decide
theorem test_decode_drawOval : decode ⟨0x0017, 0x0001, 0x0002, 0x0007, 0x0005, 0, 0, 0⟩ =
    .ok (.drawOval 1 2 7 5) := by decide
theorem test_decode_drawRoundRect : decode ⟨0x0018, 0x0001, 0x0002, 0x0008, 0x0006, 0x0003, 0, 0⟩ =
    .ok (.drawRoundRect 1 2 8 6 3) := by decide
theorem test_decode_fillRoundRect : decode ⟨0x0019, 0x0001, 0x0002, 0x0008, 0x0006, 0xFFFF, 0, 0⟩ =
    .ok (.fillRoundRect 1 2 8 6 (-1)) := by decide
theorem test_decode_drawText : decode ⟨0x011A, 0x000A, 0xFFFF, 0x0040, 0x0001, 0xFFFF, 0x0200, 0x0003⟩ =
    .ok (.drawText true false 10 (-1) 0x10040 65535 0x30200) := by decide
theorem test_decode_drawImage : decode ⟨0x001B, 0x000A, 0x0014, 0x0100, 0x0002, 0x000F, 0x0001, 0⟩ =
    .ok (.drawImage 10 20 0x20100 0x1000F) := by decide
theorem test_decode_measureText : decode ⟨0x0220, 0xFFFF, 0xFFFF, 0x0300, 0, 0x0004, 0x0340, 0⟩ =
    .ok (.measureText true 0x300 4 0x340) := by decide
theorem test_decode_brOpen : decode ⟨0x0021, 0x0100, 0, 0x0003, 0x1000, 0, 0, 0⟩ =
    .ok (.brOpen 0x100 0x10000003) := by decide
theorem test_decode_brBit : decode ⟨0x0022, 0, 0, 0, 0, 0, 0, 0⟩ = .ok .brBit := by decide
theorem test_decode_brBits : decode ⟨0x0023, 0x0008, 0, 0, 0, 0, 0, 0⟩ = .ok (.brBits 8) := by decide
theorem test_decode_brNum : decode ⟨0x0024, 0, 0, 0, 0, 0, 0, 0⟩ = .ok .brNum := by decide
theorem test_decode_blendA : decode ⟨0x0125, 0xFFFF, 0, 0, 0, 0, 0, 0⟩ = .ok (.blendA true (-1)) := by decide
theorem test_decode_blendO : decode ⟨0x0026, 0x0100, 0, 0, 0, 0, 0, 0⟩ = .ok (.blendO 256) := by decide
theorem test_decode_xformClip : decode ⟨0x0127, 0xFFFB, 0xFFFB, 0x0005, 0x0005, 0, 0, 0⟩ =
    .ok (.xformClip true (-5) (-5) 5 5) := by decide

/-- The reserved opcodes at the edges of their ranges (30_encoding.md R101). -/
theorem test_decode_reserved : ∀ op ∈ [0x0D, 0x0F, 0x1C, 0x1F, 0x28, 0xFF],
    decode (tablePacket 8 op) = .error (.reservedOpcode op) := by decide

/-- 30_encoding.md R102 as one number of 128 bits (R90): DRAW_LINE 2, 3, 10, -1. -/
theorem test_decodeTableWord : decodeTableWord 80 0xFFFF000A000300020015 = some (.drawLine 2 3 10 (-1)) := by decide

/-- A step runs the packet that `withFetchWord` places (40_config.md R116 by way of the port). -/
theorem test_withFetchWord : (goesOn (step (State.reset.withFetchWord 24 0x030005))).map
    (fun t => (t.lineW, t.queue, t.busy)) = some (3, [], false) := by decide +kernel

/-! ### One step a command -/

/-- 95_test_vectors.md section 10 row 6: NOP clears LASTERR and not ERRSTICKY. -/
theorem test_exec_nop : seen .nop { State.reset with lastErr := 2#8, errSticky := 6#16 }
    (fun t => (t.lastErr, t.errSticky)) = some (0#8, 6#16) := by decide

/-- 40_config.md R112. -/
theorem test_exec_setFgRgb : seen (.setFgRgb 255 0 0) State.reset (fun t => t.fg) =
    some ⟨255, 0, 0, 0xF800⟩ := by decide

/-- 40_config.md R113. -/
theorem test_exec_setBgRgb : seen (.setBgRgb 0x12 0x34 0x56) State.reset (fun t => t.bg) =
    some ⟨0x12, 0x34, 0x56, 0x11AA⟩ := by decide

/-- 95_test_vectors.md section 2 row 4. -/
theorem test_exec_setFgPacked : seen (.setFgPacked 0x1234) State.reset (fun t => t.fg) =
    some ⟨16, 69, 165, 0x1234⟩ := by decide

/-- 40_config.md R115. -/
theorem test_exec_setBgPacked : seen (.setBgPacked 0x07E0) State.reset (fun t => t.bg) =
    some ⟨0, 255, 0, 0x07E0⟩ := by decide

/-- 95_test_vectors.md section 2 rows 7 to 9. -/
theorem test_exec_setLineWidth :
    seen (.setLineWidth 255) State.reset (fun t => (t.lineW, t.lastErr)) = some (255, 0#8) ∧
    seen (.setLineWidth 256) State.reset (fun t => (t.lineW, t.lastErr, t.errSticky)) = some (1, 2#8, 4#16) ∧
    seen (.setLineWidth 0) State.reset (fun t => (t.lineW, t.lastErr)) = some (1, 2#8) := by decide

/-- 95_test_vectors.md section 2, flags and scroll, row 1. -/
theorem test_exec_setAntialias : seen (.setAntialias true) State.reset (fun t => t.readRegister 0x04) =
    some 0x0C := by decide

/-- 40_config.md R119. -/
theorem test_exec_setOrientation : seen (.setOrientation 1) State.reset
    (fun t => (t.logW, t.logH, t.events)) = some (320, 240, [.orient .landscape]) := by decide

/-- 95_test_vectors.md section 2 row 11. -/
theorem test_exec_setOrientation_rejected : seen (.setOrientation 4) State.reset
    (fun t => (t.orient, t.events, t.lastErr)) = some (.portrait, [], 2#8) := by decide

/-- 40_config.md R120. -/
theorem test_exec_setOrigin : seen (.setOrigin false) State.reset (fun t => t.readRegister 0x04) = some 0 := by decide

/-- 40_config.md R122. -/
theorem test_exec_scroll : seen (.scroll 50) { State.reset with scroll := 300 } (fun t => (t.scroll, t.events)) =
      some (30, [.scrollCmd 30]) ∧
    seen (.scroll (-31)) { State.reset with scroll := 30 } (fun t => (t.scroll, t.events)) =
      some (319, [.scrollCmd 319]) := by decide

/-- 95_test_vectors.md section 2, flags and scroll, row 9: nothing changes, nothing is emitted. -/
theorem test_exec_scroll_multiple : seen (.scroll 320) State.reset (fun t => (t.scroll, t.events)) =
    some (0, []) := by decide

/-- 95_test_vectors.md section 2, flags and scroll, row 5. -/
theorem test_exec_setTextWrap : seen (.setTextWrap true true 2 200 300 3) State.reset
    (fun t => (t.readRegister 0x04, t.marginL, t.marginR, t.marginB, t.lineGap)) =
      some (0x34, 2, 200, 300, 3) := by decide

/-- 40_config.md R126. -/
theorem test_exec_clearErr : seen .clearErr { State.reset with lastErr := 8#8, errSticky := 0x0104#16 }
    (fun t => (t.lastErr, t.errSticky)) = some (0#8, 0#16) := by decide

/-- The bytes of 95_test_vectors.md section 3. -/
def readerBytes : State :=
  { withBytes 0x100 [0xA5, 0xB0, 0xFF] with brOpen := true, brBase := 0x100, brSize := 3 }

/-- 41_bitreader.md R148 and 95_test_vectors.md section 3 row 17. -/
theorem test_exec_brOpen : seen (.brOpen 0x100 2) readerBytes (fun t => (t.brOpen, t.brSize, t.brPos, t.lastErr)) =
      some (true, 2, 0, 0) ∧
    seen (.brOpen 0x3FF 2) readerBytes (fun t => (t.brBase, t.brSize, t.lastErr)) = some (0x100, 3, 3) := by decide

/-- 95_test_vectors.md section 3 rows 3 and 1. -/
theorem test_exec_brBit : seen .brBit readerBytes (fun t => (t.res, t.brPos, t.lastErr)) = some (1, 1, 0) ∧
    seen .brBit State.reset (fun t => (t.res, t.lastErr)) = some (0, 2) := by decide +kernel

/-- 95_test_vectors.md section 3 rows 6, 9 and 11. -/
theorem test_exec_brBits :
    seen (.brBits 8) { readerBytes with brPos := 4 } (fun t => (t.res, t.brPos)) = some (0x5B, 12) ∧
    seen (.brBits 9) { readerBytes with brPos := 22 } (fun t => (t.brPos, t.lastErr)) = some (22, 2) ∧
    seen (.brBits 5) { readerBytes with brPos := 23 } (fun t => (t.res, t.brPos)) = some (0, 28) := by decide +kernel

/-- 41_bitreader.md R151, and 95_test_vectors.md section 3 row 15. -/
theorem test_exec_brNum :
    seen .brNum { withBytes 0x100 [0xB0] with brOpen := true, brBase := 0x100, brSize := 1 }
      (fun t => (t.res, t.brPos)) = some (7, 4) ∧
    seen .brNum { withBytes 0x110 [0xFB, 0xF0] with brOpen := true, brBase := 0x110, brSize := 2 }
      (fun t => (t.res, t.brPos)) = some (0x5F, 11) := by decide +kernel

/-- The colours of 95_test_vectors.md section 4. -/
def blendStart : State := { State.reset with fg := ⟨200, 100, 50, 0xCB26⟩, bg := ⟨10, 20, 30, 0x08A3⟩ }

/-- 95_test_vectors.md section 4 rows 1 and 14. -/
theorem test_exec_blendA : seen (.blendA false 64) blendStart (fun t => (t.res, t.fg.p)) =
      some (0x00392823, 0xCB26) ∧
    seen (.blendA true 128) blendStart (fun t => (t.res, t.fg)) =
      some (0x00693C28, ⟨105, 60, 40, 0x69E5⟩) := by decide

/-- 95_test_vectors.md section 4 rows 11 and 13. -/
theorem test_exec_blendO : seen (.blendO 64) blendStart (fun t => (t.res, t.lastErr)) = some (0x00984F2C, 0) ∧
    seen (.blendO 256) blendStart (fun t => (t.res, t.lastErr)) = some (0, 2) := by decide

/-- 95_test_vectors.md section 5: orientation 2, relative, SCROLL 50, row 1; and orientation 0 row 2. -/
theorem test_exec_xformClip :
    seen (.xformClip false 0 0 9 4) { State.reset with orient := .portraitFlip, scroll := 50 }
      (fun t => (t.boundVis, t.boundX1, t.boundY1, t.boundX2, t.boundY2, t.res)) =
        some (true, 230, 315, 239, 319, 0x0031002D) ∧
    seen (.xformClip false 0 60 10 70) { State.reset with scroll := 50 } (fun t => (t.boundVis, t.res)) =
      some (false, 0) := by decide +kernel

/-- 44_raster_basic.md R205, and 95_test_vectors.md section 5, drawing, row 5. -/
theorem test_exec_drawPixel : shown (.drawPixel 5 7) State.reset = bracketed (dots [(5, 7)]) ∧
    shown (.drawPixel 0 0) { State.reset with orient := .portraitFlip, scroll := 300 } =
      bracketed (dots [(239, 299)]) := by decide +kernel

/-- 44_raster_basic.md R206. -/
theorem test_exec_fillRect : shown (.fillRect 0 10 4 16) { State.reset with scroll := 300 } =
    bracketed [block 0 310 3 319 0xFFFF 40, block 0 0 3 5 0xFFFF 24] := by decide +kernel

/-- 44_raster_basic.md R207. -/
theorem test_exec_hline : shown (.hline 30 4 10) State.reset = bracketed [block 10 4 30 4 0xFFFF 21] := by
  decide +kernel

/-- 44_raster_basic.md R208. -/
theorem test_exec_vline : shown (.vline 3 (-5) 2) State.reset = bracketed [block 3 0 3 2 0xFFFF 3] := by
  decide +kernel

/-- 44_raster_basic.md R209. -/
theorem test_exec_drawRect : shown (.drawRect 1 1 4 3) State.reset = bracketed [block 1 1 4 1 0xFFFF 4,
    block 1 3 4 3 0xFFFF 4, block 1 1 1 3 0xFFFF 3, block 4 1 4 3 0xFFFF 3] := by decide +kernel

/-- 45_raster_line.md R220, and the antialiased line of 95_test_vectors.md section 7. -/
theorem test_exec_drawLine :
    shown (.drawLine 5 2 0 0) State.reset = bracketed (dots [(0, 0), (1, 0), (2, 1), (3, 1), (4, 2), (5, 2)]) ∧
    shown (.drawLine 0 0 1 3) { State.reset with aa := true } =
      bracketed [dot 0 0 0xFFFF, dot 1 0 0, dot 0 1 0xAD55, dot 1 1 0x52AA, dot 0 2 0x52AA, dot 1 2 0xAD55,
        dot 1 3 0xFFFF, dot 2 3 0] := by decide +kernel

/-- 45_raster_line.md R229. -/
theorem test_exec_drawLine_thick : shown (.drawLine 1 1 4 2) { State.reset with lineW := 2 } =
    bracketed [dot 1 1 0xFFFF, dot 1 2 0x8C71, dot 2 1 0xFFFF, dot 2 2 0xDEFB, dot 3 1 0xDEFB, dot 3 2 0xFFFF,
      dot 3 3 0x39E7, dot 4 1 0x8C71, dot 4 2 0xFFFF, dot 4 3 0x8C71] := by decide +kernel

/-- 46_raster_round.md R243. -/
theorem test_exec_drawCircle : shown (.drawCircle 10 10 1) State.reset =
    bracketed (dots [(10, 9), (10, 9), (10, 11), (10, 11), (9, 10), (11, 10), (9, 10), (11, 10)]) := by
  decide +kernel

/-- 95_test_vectors.md section 7, antialiased round shapes, row 1, up to the first step of loop 1. -/
theorem test_exec_drawCircle_smooth :
    (shown (.drawCircle 4 4 2) { State.reset with aa := true }).map (fun r => r.1.take 25) =
      some (.acq :: [block 4 2 4 2 0xFFFF 1, block 4 6 4 6 0xFFFF 1, block 2 4 2 4 0xFFFF 1, block 6 4 6 4 0xFFFF 1,
        dot 3 2 0xFFFF, dot 5 2 0xFFFF, dot 3 6 0xFFFF, dot 5 6 0xFFFF, dot 3 3 0x39E7, dot 5 3 0x39E7,
        dot 3 5 0x39E7, dot 5 5 0x39E7].flatten) := by decide +kernel

/-- 46_raster_round.md R246, and R250 example 1. -/
theorem test_exec_drawOval :
    shown (.drawOval 0 0 2 7) State.reset = bracketed [block 0 0 1 0 0xFFFF 2, block 0 6 1 6 0xFFFF 2,
      block 0 0 0 6 0xFFFF 7, block 1 0 1 6 0xFFFF 7] ∧
    shown (.drawOval 0 0 8 6) State.reset = bracketed (dots [(3, 0), (4, 0), (3, 5), (4, 5), (0, 2), (7, 2), (0, 3),
      (7, 3), (2, 0), (5, 0), (2, 5), (5, 5), (0, 2), (7, 2), (0, 3), (7, 3), (1, 1), (6, 1), (1, 4), (6, 4), (1, 1),
      (6, 1), (1, 4), (6, 4)]) := by decide +kernel

/-- 46_raster_round.md R252. -/
theorem test_exec_drawRoundRect : shown (.drawRoundRect 0 0 8 6 9) State.reset =
    bracketed ([block 2 0 5 0 0xFFFF 4, block 2 5 5 5 0xFFFF 4, block 0 2 0 3 0xFFFF 2, block 7 2 7 3 0xFFFF 2] ++
      dots [(2, 0), (5, 0), (2, 5), (5, 5), (0, 2), (7, 2), (0, 3), (7, 3), (1, 0), (6, 0), (1, 5), (6, 5), (0, 1),
        (7, 1), (0, 4), (7, 4)]) := by decide +kernel

/-- 46_raster_round.md R253. -/
theorem test_exec_fillRoundRect : shown (.fillRoundRect 0 0 8 6 2) State.reset =
    bracketed [block 0 2 7 3 0xFFFF 16, block 2 0 5 0 0xFFFF 4, block 2 5 5 5 0xFFFF 4, block 0 2 7 2 0xFFFF 8,
      block 0 3 7 3 0xFFFF 8, block 1 0 6 0 0xFFFF 6, block 1 5 6 5 0xFFFF 6, block 0 1 7 1 0xFFFF 8,
      block 0 4 7 4 0xFFFF 8] := by decide +kernel

/-- The font F1 of 47_glyph.md R290. -/
def fontF1 : List Byte :=
  [0x5A, 0x46, 0x01, 0x08, 0x06, 0x00, 0x41, 0x00, 0x0E, 0x06, 0x01, 0x02, 0x01, 0x9F, 0x6F, 0x6F, 0x0F, 0x6F, 0x6F,
    0x00, 0x20, 0x00, 0x08, 0x03, 0x00, 0x08, 0x00, 0x00, 0x42, 0x80, 0x0E, 0x05, 0x00, 0x01, 0x01, 0x84, 0x02, 0x81,
    0x01, 0x86, 0x7F, 0x00, 0x49, 0x80, 0x09, 0x03, 0x81, 0x00, 0x01, 0x88, 0x00, 0x00]

/-- F1 at 0x100, text "AB I" at 0x300 and kerning at 0x340 (95_test_vectors.md section 8), nothing selected. -/
def textBytes : State :=
  { State.reset with
    amem := putBytes 0x100 fontF1 (putBytes 0x300 [0x00, 0x41, 0x00, 0x42, 0x00, 0x20, 0x00, 0x49]
      (putBytes 0x340 [0x01, 0xFE, 0x80, 0x05] [])) }

/-- F1 selected. -/
def fontSelected : State :=
  { textBytes with
    fontValid := true, fontBase := 0x100, fontSize := 52, fontType := 1, fontLh := 8, fontBl := 6 }

/-- F1 cut after 30 bytes, which cuts the record of 'B' (47_glyph.md R299). -/
def fontCut : State := { fontSelected with fontSize := 30 }

/-- 47_glyph.md R275. -/
theorem test_exec_setFont : seen (.setFont 0x100 52) textBytes
      (fun t => (t.fontValid, t.fontType, t.fontLh, t.fontBl, t.lastErr)) = some (true, 1, 8, 6, 0) ∧
    seen (.setFont 0x100 4) textBytes (fun t => (t.fontValid, t.lastErr)) = some (false, 6) ∧
    seen (.setFont 0x101 20) textBytes (fun t => (t.fontValid, t.lastErr)) = some (false, 4) := by decide +kernel

/-- 47_glyph.md R292. -/
theorem test_exec_measureText : seen (.measureText false 0x300 4 0) fontSelected (fun t => t.res) = some 17 ∧
    seen (.measureText true 0x300 4 0x340) fontSelected (fun t => t.res) = some 12 := by decide +kernel

/-- 95_test_vectors.md section 8 row G12. -/
theorem test_exec_drawText : shown (.drawText false false 10 20 0x300 4 0) fontSelected = bracketed (
      dots [(12, 22), (13, 22), (11, 23), (14, 23), (11, 24), (14, 24), (11, 25), (12, 25), (13, 25), (14, 25),
        (11, 26), (14, 26), (11, 27), (14, 27)] ++
      [block 16 21 19 21 0xFFFF 4, block 18 22 18 22 0xFFFF 1, block 16 23 19 23 0xFFFF 4, block 16 24 17 24 0xFFFF 2,
        block 25 20 25 27 0xFFFF 8]) ∧
    seen (.drawText false false 10 20 0x300 4 0) fontSelected (fun t => (t.caretX, t.caretY)) = some (27, 20) := by
  decide +kernel

/-- 47_glyph.md R299: the cut font stops the text at 'B'; what was drawn stays. -/
theorem test_exec_drawText_cut :
    (shown (.drawText false false 3 4 0x300 2 0) fontCut).map
      (fun r => (r.1.length, r.1.take 3, r.1.getLast?, r.2)) =
        some (30, .acq :: dot 5 6 0xFFFF, some .rel, 8) ∧
    seen (.drawText false false 3 4 0x300 2 0) fontCut (fun t => (t.caretX, t.caretY, t.nest)) = some (9, 4, 0) := by
  decide +kernel

/-- The image I4 of 48_image.md R327 at 0x140. -/
def imageI4 : State := withBytes 0x140 [0x5A, 0x00, 0x00, 0x0E, 0x00, 0x00, 0x0C, 0x01, 0x00, 0x03, 0x00, 0x02, 0x08,
  0x84, 0x44, 0x42, 0x21, 0x98, 0xCC, 0x88, 0x44, 0x2A, 0x95, 0x4C, 0xC6, 0x60]

/-- The image I6 of 48_image.md R327 at 0x180, with a bad back-reference. -/
def imageI6 : State := withBytes 0x180 [0x5A, 0x00, 0x00, 0x07, 0x00, 0x00, 0x08, 0x02, 0x00, 0x02, 0x00, 0x02, 0x09,
  0x0D, 0x0A, 0xC7, 0x8C, 0x20, 0x00]

/-- 48_image.md R326, wrapped: orientation 1, SCROLL 318. -/
theorem test_exec_drawImage :
    shown (.drawImage 1 0 0x140 26) { imageI4 with orient := .landscape, scroll := 318 } =
      bracketed [dot 239 319 0x1111, [.region 239 0 239 1, .pix 0x2222, .pix 0x3333], dot 238 319 0x4444,
        [.region 238 0 238 1, .pix 0x5555, .pix 0x6666]] := by decide +kernel

/-- 95_test_vectors.md section 9 row 5. -/
theorem test_exec_drawImage_backref : shown (.drawImage 0 0 0x180 19) imageI6 =
    some ([.acq, .region 0 0 1 0, .pix 0x1234, .pix 0x5678, .rel], 15) := by decide +kernel

/-- 60_exceptions.md R345: a reserved opcode is illegal and the block goes on. -/
theorem test_step_reserved : (goesOn (step { State.reset with queue := [tablePacket 8 0x1C, tablePacket 8 0] })).map
    (fun t => (t.lastErr, t.errSticky, t.events, t.queue, t.busy)) =
      some (1#8, 2#16, [], [tablePacket 8 0], true) := by decide +kernel

/-! ### Witnesses: data that meet the hypotheses of each statement in Obligations.lean, at the edges of a range -/

/-- An outcome that goes on is a next state. -/
theorem next_of_goesOn {o : Host.Outcome State Fault Refusal} (h : (goesOn o).isSome = true) : ∃ t, o = .next t := by
  cases o with
  | next t => exact ⟨t, rfl⟩
  | fault r => cases h
  | refused r => cases h

/-- A state between two commands with a font selected, a reader open, a scroll and two packets waiting. -/
def ready : State :=
  { fontSelected with
    scroll := 319, brOpen := true, brBase := 0x3FF, brSize := 1, busy := true
    queue := [⟨0x021A, 0x000A, 0x0014, 0x0300, 0, 0x0004, 0x0340, 0⟩, tablePacket 8 0x1C] }

theorem ready_inv : ready.Inv where
  params := by decide
  scroll := by decide
  lineW_pos := by decide
  lineW_le := by decide
  fg_packed := by decide
  bg_packed := by decide
  nest := by decide
  font_slice := by decide
  font_size := by decide
  font_type := by decide
  reader_slice := by decide
  reader_size := by decide
  sticky := by decide
  lastErr := by decide
  busy := by decide
  memory := by decide +kernel
  memory_range := by decide +kernel

theorem ready_steps : ∃ t, step ready = .next t := next_of_goesOn (by decide +kernel)

theorem witness_DecodeEncodeAgree :
    (Instr.drawText true false (-32768) 32767 (2 ^ 32 - 1) 65535 0).wf = true ∧ (Instr.setLineWidth 0).wf = true ∧
      (Instr.xformClip true (-32768) (-32768) 32767 32767).wf = true := by decide

theorem witness_UnnamedBitsIgnored :
    let p : Packet := ⟨0x0105, 0x0003, 0, 0, 0, 0, 0, 0⟩
    let q : Packet := ⟨0xFE05, 0x0003, 1, 2, 3, 4, 5, 6⟩
    decode p = .ok (.setLineWidth 3) ∧ packetOp q = packetOp p ∧
      packetAnd q (namedBits (.setLineWidth 3)) = packetAnd p (namedBits (.setLineWidth 3)) := by decide

theorem witness_ReservedOpcodeIsIllegal :
    let p (op : Nat) := tablePacket 8 op
    (∀ op ∈ [0x0D, 0x0F, 0x1C, 0x1F, 0x28, 0xFF], reservedOpcode (packetOp (p op))) ∧
      (∀ op ∈ [0x0C, 0x10, 0x1B, 0x20, 0x27], ¬ reservedOpcode (packetOp (p op))) ∧
      ({ ready with queue := [p 0xFF, p 0] }).queue = p 0xFF :: [p 0] := by
  unfold reservedOpcode
  decide

theorem witness_StepRunsDecodedCommand :
    ready.queue = ⟨0x021A, 0x000A, 0x0014, 0x0300, 0, 0x0004, 0x0340, 0⟩ :: [tablePacket 8 0x1C] ∧
      decode ⟨0x021A, 0x000A, 0x0014, 0x0300, 0, 0x0004, 0x0340, 0⟩ =
        .ok (.drawText false true 10 20 0x300 4 0x340) ∧
      ∃ t, exec (.drawText false true 10 20 0x300 4 0x340)
        { ready with queue := [tablePacket 8 0x1C], busy := true } = .next t :=
  ⟨rfl, by decide, next_of_goesOn (by decide +kernel)⟩

theorem witness_StepTakesOnePacketInOrder : State.reset.queue = [] ∧ ready.queue ≠ [] := by decide

theorem witness_StepKeepsInvariant : ready.Inv ∧ ∃ t, step ready = .next t := ⟨ready_inv, ready_steps⟩

theorem witness_StepKeepsEventStreamWellFormed : ready.Inv ∧
    streamOk ready.par ([.orient .landscape, .acq] ++ dot 239 319 0 ++ [.rel]) = true ∧
    streamOk ready.par ready.events = true ∧ ∃ t, step ready = .next t :=
  ⟨ready_inv, by decide, by decide, ready_steps⟩

theorem witness_HostActionsKeepInvariant : ready.Inv ∧ (ready.hostWriteCommand (tablePacket 8 0)).isSome = true ∧
    (({ ready with busy := false }).hostWriteAsset 0x3FF 0xAA).isSome = true ∧
    (({ ready with busy := false }).hostWriteAsset 0x400 0xAA).isSome = false :=
  ⟨ready_inv, by decide, by decide +kernel, by decide⟩

theorem reset_inv : State.reset.Inv := by constructor <;> decide

/-- Both cases are met: an idle block, and one with two packets ahead. -/
theorem witness_PollingHostReadsItsResult :
    (State.reset.Inv ∧ State.reset.portBusy = false ∧ decode ⟨5, 3, 0, 0, 0, 0, 0, 0⟩ = .ok (.setLineWidth 3)) ∧
    ready.Inv ∧ ready.queue.length = 2 ∧ (ready.hostWriteCommand (tablePacket 8 0)).isSome = true :=
  ⟨⟨reset_inv, by decide, rfl⟩, ready_inv, rfl, by decide⟩

/-- R366's host: BUSY reads 1 after the write, 0 after the command, and then LINEW reads the new width (R40). -/
theorem test_polling_host : (State.reset.hostWriteCommand ⟨5, 3, 0, 0, 0, 0, 0, 0⟩).map
      (fun t => (t.portBusy, t.portRead 5, (goesOn (step t)).map fun u => (u.portBusy, u.portRead 5))) =
    some (true, none, some (false, some 3)) := by decide +kernel

/-- A port of depth 1 holds one packet beside the one the engine has taken, and accepts no third (R367). -/
theorem test_port_full :
    let s := { State.reset with par := { State.reset.par with cmdFifoDepth := 1 } }
    let p := tablePacket 8 0
    ((s.hostWriteCommand p).bind (·.hostWriteCommand p)).isSome = true ∧
      (((s.hostWriteCommand p).bind (·.hostWriteCommand p)).bind (·.hostWriteCommand p)).isNone = true := by decide

theorem witness_RegisterPortReadsTheMap : 0x28 ≤ (0x28 : Byte).toNat ∧ 0x28 ≤ (0xFF : Byte).toNat := by decide

theorem witness_FailurePhases :
    (∃ t, exec (.setLineWidth 0) ready = .next t ∧ t.lastErr ≠ 0) ∧
    (∃ t, exec (.drawText false false 3 4 0x300 2 0) fontCut = .next t ∧ t.lastErr ≠ 0) ∧
    ∃ t, exec (.drawImage 0 0 0x180 19) imageI6 = .next t ∧ t.lastErr ≠ 0 := by
  refine ⟨⟨_, rfl, by decide +kernel⟩, ⟨_, rfl, by decide +kernel⟩, ⟨_, rfl, by decide +kernel⟩⟩

theorem witness_DrawingCommandIsBracketed :
    (0x10 ≤ (Instr.drawPixel 0 0).opcode ∧ (Instr.drawPixel 0 0).opcode ≤ 0x1B) ∧
    (0x10 ≤ (Instr.drawImage 0 0 0 0).opcode ∧ (Instr.drawImage 0 0 0 0).opcode ≤ 0x1B) ∧
    ready.nest = 0 ∧ (∃ t, exec (.drawPixel 0 0) ready = .next t) ∧ ∃ t, exec (.drawImage 0 0 0 0) ready = .next t :=
  ⟨by decide, by decide, rfl, ⟨_, rfl⟩, next_of_goesOn (by decide +kernel)⟩

theorem witness_ConfigurationCommandsNeverDraw : ∀ i ∈ [Instr.nop, .clearErr, .setTextWrap true true 0 0 0 0],
    i.opcode ≤ 0x0C ∧ i.opcode ≠ 0x0A := by decide

/-- NOP meets every premise on the opcode at once. -/
theorem witness_OnlyNamedCommandsWriteAField : (∃ t, exec .nop ready = .next t) ∧
    Instr.nop.opcode ∉ [0x0A, 0x0B, 0x27, 0x21, 0x22, 0x23, 0x24, 0x20, 0x25, 0x26, 0x09, 0x1A, 0x01, 0x03, 0x02,
      0x04, 0x05, 0x06, 0x07, 0x08] := ⟨⟨_, rfl⟩, by decide⟩

/-- For each command, the packet of its opcode meets the premise of its decoding clause. -/
theorem witness_decoding_clauses : ∀ op ∈ List.range 0x28, packetOp (tablePacket 8 op) = op := by decide

theorem witness_SettersWithARange : (1 ≤ 1 ∧ 1 ≤ 255) ∧ (1 ≤ 255 ∧ 255 ≤ 255) ∧ (0 = 0 ∨ 255 < 0) ∧
    (256 = 0 ∨ 255 < 256) ∧ 3 ≤ 3 ∧ 3 < 4 := by decide

theorem witness_ScrollMovesModuloHeight : ready.par.wf = true ∧ ready.scroll < ready.par.devH ∧
    (ready.par.devH : Int) ∣ 0 ∧ (ready.par.devH : Int) ∣ -320 ∧ ¬ (ready.par.devH : Int) ∣ 1 ∧
    ¬ (ready.par.devH : Int) ∣ -321 := by decide

theorem witness_SetTextWrap : fitsS16 (-32768) = true ∧ fitsS16 32767 = true := by decide

theorem witness_SetFontChecksInOrder :
    let bad := withBytes 0x3FB [0x5A, 0x46, 0x03, 0x08, 0x06]
    let aa := withBytes 0x3FB [0x5A, 0x46, 0x02, 0x08, 0x06]
    (0x3FC < 2 ^ 32 ∧ 5 < 2 ^ 32 ∧ ¬ 0x3FC + 5 ≤ bad.par.amemSize) ∧ (0x3FC + 4 ≤ bad.par.amemSize ∧ 4 < 5) ∧
    (0x3FB + 5 ≤ State.reset.par.amemSize ∧ be16 State.reset 0x3FB ≠ State.reset.par.fontMagic.toNat) ∧
    (be16 bad 0x3FB = bad.par.fontMagic.toNat ∧
      ¬ (memRead bad 0x3FD = bad.par.fontTypeBitmask ∨ memRead bad 0x3FD = bad.par.fontTypeAa)) ∧
    be16 aa 0x3FB = aa.par.fontMagic.toNat ∧ memRead aa 0x3FD = aa.par.fontTypeAa := by decide +kernel

theorem witness_BrOpen :
    let big : State := { State.reset with par := { Params.default with amemSize := 2 ^ 32 } }
    big.par.wf = true ∧ State.reset.par.amemSize < 0x3FF + 2 ∧ 0x400 + 0 ≤ State.reset.par.amemSize ∧
    0 + 0x20000000 ≤ big.par.amemSize ∧ 0x1FFFFFFF < 0x20000000 ∧ 0x1FFFFFFF ≤ 0x1FFFFFFF ∧
    2 ^ 32 - 0x1FFFFFFF + 0x1FFFFFFF ≤ big.par.amemSize := by decide

theorem witness_BrBitAndBrBits :
    let at16 : State := { readerBytes with brPos := 16 }
    let at17 : State := { readerBytes with brPos := 17 }
    State.reset.brOpen = false ∧ 8 < 9 ∧ at16.brOpen = true ∧ 8 ≤ 8 ∧
    at16.brPos.toNat + 8 ≤ 8 * at16.brSize.toNat ∧ 8 * at17.brSize.toNat < at17.brPos.toNat + 8 := by decide

/-- A number that fills the buffer to its last bit, the widest code, and fields that pass the end, with the
smallest and the largest width. -/
theorem witness_BrNumReadsTheCode :
    let s : State := { withBytes 0x100 [0xFF, 0xE0, 0xFC] with brOpen := true, brBase := 0x100, brSize := 3 }
    let end2 : State := { s with brPos := 22 }
    let past : State := { s with brPos := 24 }
    let wide : State := { s with brPos := 16 }
    s.par.wf = true ∧ s.brOpen = true ∧ State.reset.brOpen = false ∧
    (s.brPos.toNat + (numberCode 127).length ≤ 8 * s.brSize.toNat ∧
      ∀ k < (numberCode 127).length, s.streamBit (s.brPos.toNat + k) = (numberCode 127).getD k false) ∧
    (end2.brPos.toNat + (numberCode 2).length ≤ 8 * end2.brSize.toNat ∧
      ∀ k < (numberCode 2).length, end2.streamBit (end2.brPos.toNat + k) = (numberCode 2).getD k false) ∧
    (8 * past.brSize.toNat < past.brPos.toNat + min 1 5 + 1 ∧
      ¬ past.brPos.toNat + (1 - 1) < 8 * past.brSize.toNat) ∧
    (8 * wide.brSize.toNat < wide.brPos.toNat + min 6 5 + 6 ∧
      ∀ k < 6 - 1, wide.brPos.toNat + k < 8 * wide.brSize.toNat ∧
        wide.streamBit (wide.brPos.toNat + k) = true) := by decide +kernel

theorem witness_BlendAlpha : blendStart.bg.p = pack blendStart.bg.r blendStart.bg.g blendStart.bg.b ∧
    blendStart.fg.p = pack blendStart.fg.r blendStart.fg.g blendStart.fg.b ∧ (-1 : Int) < 0 ∧ (0 : Int) ≤ 0 ∧
    (255 : Int) ≤ 255 := by decide

theorem witness_BlendOpacity : blendStart.par.wf = true ∧ 255 < 256 ∧ 255 ≤ 255 ∧ 0 ≤ 255 := by decide

theorem witness_TransformIsABijection : ∀ o ∈ [Orientation.portrait, .landscape, .portraitFlip, .landscapeFlip],
    ({ State.reset with orient := o }).par.wf = true ∧
      (⟨0, 0, 0, 319⟩ : Rect).x1 ≤ (⟨0, 0, 0, 319⟩ : Rect).x2 ∧
      (⟨0, 0, 0, 319⟩ : Rect).y1 ≤ (⟨0, 0, 0, 319⟩ : Rect).y2 := by decide

/-- 43_bounds.md R189 and R190: the source's clipping scenario, and the rectangle below the band. -/
theorem witness_ClipIsAnIntersection :
    let s : State := { State.reset with scroll := 50 }
    s.par.wf = true ∧ clipToVisible s ⟨0, 0, 239, 319⟩ = some ⟨0, 0, 239, 49⟩ ∧
      clipToVisible s ⟨0, 50, 239, 319⟩ = none := by decide

theorem witness_XformClip :
    let s : State := { State.reset with scroll := 319, orient := .landscape }
    s.par.wf = true ∧ s.scroll < s.par.devH ∧
      clipToVisible s (transformToDevice s ⟨0, 0, 319, 239⟩) = some ⟨0, 0, 239, 318⟩ ∧
      clipToVisible s ⟨0, 319, 239, 319⟩ = none := by decide

theorem witness_DrawPixelLandsAtTransformedPoint :
    let s := State.reset
    s.par.wf = true ∧ s.nest = 0 ∧ s.Visible 0 0 ∧ s.Visible 239 319 ∧ ¬ s.Visible 240 0 ∧ ¬ s.Visible 0 (-1) ∧
      ¬ ({ s with scroll := 50 } : State).Visible 0 50 := by
  simp only [State.Visible]
  decide

theorem witness_RectanglesAreFills : State.reset.nest = 0 ∧ (0 : Int) < 1 ∧ ((0 : Int) ≤ 0 ∨ (1 : Int) ≤ 0) := by
  decide

/-- One pixel of a fill, and a pixel outside it. -/
theorem witness_FillPaintsWhatPixelWould :
    let s := State.reset
    let painted (X Y : Nat) := ∃ x y : Int, min 0 239 ≤ x ∧ x ≤ max 0 239 ∧ min 3 3 ≤ y ∧ y ≤ max 3 3 ∧
      pixel s s.fg x y = [.region X Y X Y, .pix s.fg.p]
    s.par.wf = true ∧ s.scroll < s.par.devH ∧ painted 239 3 ∧ ¬ painted 239 4 := by
  refine ⟨by decide, by decide, ⟨239, 3, by decide, by decide, by decide, by decide, by decide +kernel⟩, ?_⟩
  rintro ⟨x, y, hx, hx', hy, hy', h⟩
  obtain rfl : y = 3 := by omega
  simp only [pixel] at h
  split at h
  · cases h
  · split at h
    · cases h
    · rename_i b hb
      simp only [clipToVisible, transformToDevice, transformPoint, rectNorm, scrollBand, scrollShift, State.reset,
        Params.default] at hb h
      simp at hb h
      obtain ⟨_, rfl⟩ := hb
      simp at h

theorem witness_DrawLineDispatch :
    let wide : State := { State.reset with lineW := 2 }
    State.reset.nest = 0 ∧ State.reset.lineW = 1 ∧ State.reset.aa = false ∧
      ({ State.reset with aa := true }).aa = true ∧ wide.nest = 0 ∧ wide.lineW ≠ 1 ∧ (0 : Int) ≠ 1 := by decide

theorem witness_BresenhamWalk : (bresPoints 5 2 0 0)[0]? = some (0, 0) ∧ (bresPoints 5 2 0 0)[1]? = some (1, 0) ∧
    (bresPoints 5 2 0 0)[4]? = some (4, 2) ∧ (bresPoints 5 2 0 0)[5]? = some (5, 2) := by decide +kernel

theorem witness_WuPlotsPairUp : (0 : Int) ≠ 1 ∧ (0 : Int) ≠ 3 ∧
    3 ≤ max ((1 : Int) - 0).natAbs ((3 : Int) - 0).natAbs := by decide

theorem witness_ThickLineWalk : 1 ≤ 1 ∧ (⟨1, 1, 255⟩ : Plot) ∈ thickPlots 1 1 4 2 2 ∧
    (min 1 4 ≤ (1 : Int) ∧ (4 : Int) ≤ max 1 4 ∧ min 1 2 ≤ (1 : Int) ∧ (2 : Int) ≤ max 1 2) ∧
    -(3 : Int) ≤ 2 * (-1) ∧ 2 * (0 : Int) ≤ 1 := by decide +kernel

theorem witness_DrawCircle : State.reset.nest = 0 ∧ (-1 : Int) < 0 ∧ ((1 : Int) ≤ 1 ∧
    ({ State.reset with aa := true }).aa = true) ∧ ((0 : Int) ≤ 0 ∧ (State.reset.aa = false ∨ (0 : Int) = 0)) := by
  decide

theorem witness_OvalAndRoundedRectangles :
    let rx (w : Int) := (w - 1) / 2
    State.reset.nest = 0 ∧ ((0 : Int) ≤ 0) ∧ (0 < (2 : Int) ∧ 0 < (7 : Int) ∧ rx 2 = 0) ∧
      (0 < (3 : Int) ∧ rx 3 ≠ 0) ∧ (min (0 : Int) (min (rx 3) (rx 3)) = 0) ∧ (min (1 : Int) (min (rx 3) (rx 3)) ≠ 0) ∧
      (-1 : Int) < 0 ∧ State.reset.aa = false ∧ ({ State.reset with aa := true }).aa = true := by decide

theorem witness_MidpointOctant : (0 : Int) ≤ 0 ∧ (midpoint 0)[0]? = some (0, 0) ∧ (midpoint 2)[1]? = some (1, 2) := by
  decide

theorem witness_OvalWalk : (1 : Int) ≤ 1 ∧ (ovalOctant (max 3 2))[0]? = some (0, 3) ∧
    (ovalOctant (max 3 2))[2]? = some (2, 2) := by decide +kernel

/-- 46_raster_round.md R255: the steps of radius 2. -/
theorem witness_CoverageStepsBounded : (1 : Int) ≤ 1 ∧ (⟨true, -1, -2, -1, 63⟩ : AaStep) ∈ aaSteps 2 2 ∧
    -(2 : Int) ≤ (⟨0, -2, 0, 0, 0⟩ : AaVars).yp := by decide +kernel

theorem witness_LookupIsALinearScan : 1 ≤ 0x41 ∧ (∃ g, lookupGlyph fontSelected 0x49 = .found g) ∧
    lookupGlyph fontSelected 1 = .absent ∧ lookupGlyph fontCut 0x42 = .trunc :=
  ⟨by decide, ⟨glyphAt fontSelected 41 9, by decide +kernel⟩, by decide +kernel, by decide +kernel⟩

/-- The sequence `01 FE 80`: two values, then the sentinel; a sequence that starts with it; one past the end. -/
theorem witness_KerningHoldsLastValue :
    let t : TextArgs := ⟨false, true, 0x300, 4, 0x340⟩
    let sentinel (a k : Nat) : Prop :=
      fontSelected.par.amemSize ≤ a + k ∨ memRead fontSelected (a + k) = fontSelected.par.kernEnd
    t.haskern = true ∧ (∀ k ≤ 1, ¬ sentinel 0x340 k) ∧ sentinel 0x340 2 ∧ sentinel 0x342 0 ∧ sentinel 0x3FF 1 ∧
      ¬ sentinel 0x3FF 0 := by decide +kernel

/-- The advances of "AB I" in F1. -/
def advances : Nat → Int
  | 0 => 6
  | 1 => 5
  | _ => 3

theorem witness_MeasureTextSumsAdvances :
    let t : TextArgs := ⟨false, false, 0x300, 5, 0⟩
    State.reset.fontValid = false ∧ fontSelected.fontValid = true ∧
    fontSelected.par.amemSize < 0x3FF + 2 * 1 ∧ 0x3FE + 2 * 1 ≤ fontSelected.par.amemSize ∧
    (∀ i < 4, charAt fontSelected t i ≠ 0 ∧ advance fontSelected t i = some (advances i)) ∧
    charAt fontSelected t 4 = 0 ∧
    (∀ i < 1, charAt fontCut t i ≠ 0 ∧ advance fontCut t i = some (advances i)) ∧ charAt fontCut t 1 ≠ 0 ∧
    advance fontCut t 1 = none := by decide +kernel

theorem witness_DrawTextWithoutWrap :
    let t : TextArgs := ⟨true, true, 0x300, 4, 0⟩
    (fontSelected.nest = 0 ∧ fontSelected.wrap = false ∧ fontSelected.fontValid = true ∧
      0x300 + 2 * 4 ≤ fontSelected.par.amemSize ∧ 4 ≤ 4 ∧
      ∀ i < 4, charAt fontSelected t i ≠ 0 ∧ advance fontSelected t i = some (advances i)) ∧
    (fontCut.nest = 0 ∧ fontCut.wrap = false ∧ fontCut.fontValid = true ∧ 1 < 4 ∧ charAt fontCut t 1 ≠ 0 ∧
      advance fontCut t 1 = none ∧ ∀ i < 1, charAt fontCut t i ≠ 0 ∧ advance fontCut t i = some (advances i)) := by
  decide +kernel

theorem witness_DrawTextCompletes : fontSelected.nest = 0 ∧ fontSelected.fontValid = true ∧
    0x300 + 2 * 4 ≤ fontSelected.par.amemSize ∧
    ∀ i < 4, lookupGlyph fontSelected (charAt fontSelected ⟨false, false, 0x300, 4, 0⟩ i) ≠ .trunc := by
  decide +kernel

/-- F1 selected with wrapping on, the right margin at 10, and the caret after the first character. -/
def wrapRun : TextRun := ⟨{ fontSelected with wrap := true, marginR := 10, nest := 1 }, 6, 0⟩

theorem witness_WordBreakTest :
    let t : TextArgs := ⟨false, false, 0x300, 4, 0⟩
    let stops (j : Nat) :=
      charAt wrapRun.st t j = 0 ∨ charAt wrapRun.st t j = 0x20 ∨ charAt wrapRun.st t j = 0x0A
    wrapRun.st.wrap = true ∧ (∀ j < 4, charAt wrapRun.st t j ≠ 0x0A ∧ advance wrapRun.st t j = some (advances j)) ∧
      ((∀ j < 2, ¬ stops j) ∧ stops 2) ∧ (charAt wrapRun.st t (3 - 1) = 0x20 ∧ ¬ stops 3) ∧
      ¬ (1 = 0 ∨ charAt wrapRun.st t (1 - 1) = 0x20 ∨ charAt wrapRun.st t (1 - 1) = 0x0A) ∧
      wrapRun.st.marginR.toInt < wrapRun.cx + 5 ∧ wrapRun.st.marginL.toInt < wrapRun.cx := by decide +kernel

/-- The new cell ends on the bottom margin, and one row below it. -/
theorem witness_LineBreakScrolls :
    let r (m : Half) : TextRun :=
      ⟨{ fontSelected with wrap := true, wrapScroll := true, marginB := m, nest := 1 }, 6, 0⟩
    let ov (m : Half) : Int := 0 + 8 + 0 + 8 - m.toInt
    let nl := withBytes 0x300 [0x00, 0x0A]
    ov 16 ≤ 0 ∧ 0 < ov 15 ∧ (r 15).st.wrapScroll = true ∧ (r 15).st.orient = .portrait ∧ 1 ≤ (r 15).st.nest ∧
      wrapRun.st.wrapScroll = false ∧ charAt nl ⟨false, false, 0x300, 1, 0⟩ 0 = 0x0A ∧ wrapRun.st.wrap = true := by
  decide +kernel

theorem witness_MeasureAgreesWithDraw : fontSelected.wrap = false ∧
    (∃ t, exec (.drawText false true 10 20 0x300 4 0x340) fontSelected = .next t ∧ t.lastErr = 0) ∧
    ∃ u, exec (.measureText true 0x300 4 0x340) fontSelected = .next u ∧ u.lastErr = 0 := by
  refine ⟨rfl, ⟨_, rfl, by decide +kernel⟩, ⟨_, rfl, by decide +kernel⟩⟩

theorem witness_GlyphRunMovesLinearly :
    let d := glyphDraw fontSelected ⟨0, 0, 0, 0⟩ (glyphAt fontSelected 27 14) 0 0
    (0 : Int) ≤ 0 ∧ (3 : Int) < glyphExt d ∧ (6 : Int) < glyphLim d := by decide +kernel

/-- An image whose header the checks pass, with the byte at `at'` of it changed. -/
def imageWith (at' : Nat) (b : Byte) : State :=
  withBytes 0x3F1 ([0x5A, 0x00, 0x00, 0x03, 0x00, 0x00, 0x04, 0x7E, 0x00, 0x02, 0x00, 0x01, 0x7F, 0x80, 0x00].set at' b)

theorem witness_ImageHeaderChecksInOrder :
    let hd (s : State) := imageHeader s 0x3F1
    let sized (s : State) := (1 ≤ (hd s).w ∧ (hd s).w < 0x8000) ∧ 1 ≤ (hd s).h ∧ (hd s).h < 0x8000
    let magic (s : State) := memRead s 0x3F1 = s.par.imageMagic
    State.reset.par.amemSize < 0x3F2 + 15 ∧ 0x3F1 + 15 ≤ State.reset.par.amemSize ∧ 11 < 12 ∧
      ¬ magic (imageWith 0 0x5B) ∧ (magic (imageWith 3 0) ∧ (hd (imageWith 3 0)).clen = 0) ∧
      (magic (imageWith 7 0) ∧ (hd (imageWith 7 0)).clen ≠ 0 ∧ (hd (imageWith 7 0)).win = 0) ∧
      (magic (imageWith 8 0x80) ∧ (hd (imageWith 8 0x80)).win ≠ 0 ∧ ¬ sized (imageWith 8 0x80)) ∧
      (sized (imageWith 6 5) ∧ (hd (imageWith 6 5)).olen ≠ 2 * (hd (imageWith 6 5)).w * (hd (imageWith 6 5)).h) := by
  decide +kernel

theorem witness_ImageDrawsItsRows :
    let s := imageWith 0 0x5A
    let vis (x : Int) := toDevice s ⟨x, 0, x + 2 - 1, 0⟩
    s.par.wf = true ∧ s.nest = 0 ∧ imageError s 0x3F1 15 = none ∧ (imageHeader s 0x3F1).w = 2 ∧
      126 ≤ (imageHeader s 0x3F1).win ∧ vis 239 ≠ none ∧ vis 240 = none ∧ vis (-1) ≠ none ∧ vis (-2) = none ∧
      imageError imageI6 0x180 19 = none := by decide +kernel

/-- The image I1, whose two literals are followed by zero bits and then by the end of the body. -/
theorem witness_LiteralImageDecodes :
    let s := imageWith 0 0x5A
    let bytes : Nat → Byte := fun j => if j = 0 then 0xFF else 0
    let limit := 8 * min (imageHeader s 0x3F1).clen (15 - 12)
    s.nest = 0 ∧ imageError s 0x3F1 15 = none ∧
      ∀ j < (imageHeader s 0x3F1).olen, (9 * j < limit → imageBit s 0x3F1 (9 * j) = false) ∧
        (9 * j + 9 ≤ limit → ∀ k < 8, imageBit s 0x3F1 (9 * j + 1 + k) = (bytes j).getLsbD (7 - k)) ∧
        (limit < 9 * j + 9 → bytes j = 0) := by decide +kernel

theorem witness_WindowNamesRecentBytes :
    let hd := imageHeader imageI4 0x140
    let d := imageStart 0x140 26 hd
    d.window.length = hd.win ∧ d.wpos < hd.win ∧ d.count ≤ hd.olen ∧
      (1 ≤ 1 ∧ 1 < (imageHeader imageI6 0x180).win) := by decide +kernel

theorem witness_ImageRowFollowsOrientation : ∀ o ∈ [Orientation.portrait, .landscape, .portraitFlip, .landscapeFlip],
    let s : State := { State.reset with orient := o }
    s.par.wf = true ∧ s.scroll = 0 ∧ ([0x1111, 0x2222] : List Half) ≠ [] ∧ (0 : Int) ≤ 0 ∧
      s.logW - 2 + ([0x1111, 0x2222] : List Half).length ≤ s.logW ∧ (0 : Int) ≤ s.logH - 1 ∧ s.logH - 1 < s.logH := by
  decide

end Sys2Proof.Tests
end

section
/-! SUPPORT. What a command can do, said once for all 33 commands: the relation `CommandEnd`, and the
inversion lemma `exec_ends` from which the frame and the invariants follow. -/

namespace Sys2Proof.Machine

/-! ### Colours -/

/-- A colour value whose packed form is in sync with its channels (40_config.md R111). -/
def Color.InSync (c : Color) : Prop := c.p = pack c.r c.g c.b

theorem colorOf_inSync (r g b : Byte) : (colorOf r g b).InSync := rfl

/-- `pack` drops from a 5-bit channel the bits that `unpack` repeated (42_compositor.md R161, R162). -/
theorem channel5_shiftRight (n : Nat) (h : n < 32) : (BitVec.ofNat 8 (n * 8 + (n >>> 2))).toNat >>> 3 = n := by
  have hbyte : n * 8 + n / 2 ^ 2 < 2 ^ 8 := by omega
  rw [BitVec.toNat_ofNat, Nat.shiftRight_eq_div_pow, Nat.shiftRight_eq_div_pow, Nat.mod_eq_of_lt hbyte]
  omega

/-- `pack` drops from a 6-bit channel the bits that `unpack` repeated (R161, R162). -/
theorem channel6_shiftRight (n : Nat) (h : n < 64) : (BitVec.ofNat 8 (n * 4 + (n >>> 4))).toNat >>> 2 = n := by
  have hbyte : n * 4 + n / 2 ^ 4 < 2 ^ 8 := by omega
  rw [BitVec.toNat_ofNat, Nat.shiftRight_eq_div_pow, Nat.shiftRight_eq_div_pow, Nat.mod_eq_of_lt hbyte]
  omega

theorem unpack_inSync (p : Half) : (unpack p).InSync := by
  have hr := channel5_shiftRight (p.extractLsb' 11 5).toNat (BitVec.isLt _)
  have hg := channel6_shiftRight (p.extractLsb' 5 6).toNat (BitVec.isLt _)
  have hb := channel5_shiftRight (p.extractLsb' 0 5).toNat (BitVec.isLt _)
  have hp := p.isLt
  apply BitVec.eq_of_toNat_eq
  simp only [unpack, pack, hr, hg, hb]
  simp only [BitVec.toNat_ofNat, BitVec.extractLsb'_toNat, Nat.shiftRight_eq_div_pow]
  omega

/-- A blend keeps the packed form in sync: it is the background itself or made of three channels (R165). -/
theorem blendAlpha_inSync {bg : Color} (fg : Color) (a : Int) (h : bg.InSync) : (blendAlpha bg fg a).InSync := by
  rcases blendAlpha_cases bg fg a with ⟨_, e⟩ | ⟨_, e⟩ <;> rw [e]
  · exact h
  · exact colorOf_inSync _ _ _

/-! ### The checks that precede a command, and what they establish -/

theorem sliceInRange_iff (s : State) (base size : Nat) :
    sliceInRange s base size = true ↔ base + size ≤ s.par.amemSize := by
  simp [sliceInRange]

/-- The checks of SET_FONT fail with codes of SET_FONT (47_glyph.md R275). -/
theorem fontError_code {s : State} {base size : Nat} {e : ErrCode} (h : fontError s base size = some e) :
    errNumber e ∈ errorCodes (.setFont base size) := by
  unfold fontError at h
  split_ifs at h <;> cases h <;> simp [errNumber, errorCodes]

/-- A font that passes the checks is a slice of asset memory with a whole header and a known type (R275). -/
theorem fontError_none {s : State} {base size : Nat} (h : fontError s base size = none) :
    base + size ≤ s.par.amemSize ∧ 5 ≤ size ∧
      (memRead s (base + 2) = s.par.fontTypeBitmask ∨ memRead s (base + 2) = s.par.fontTypeAa) := by
  unfold fontError at h
  split_ifs at h with hslice hsize _ htype
  simp only [Bool.not_eq_true', Bool.not_eq_false, sliceInRange_iff] at hslice
  exact ⟨hslice, by omega, by tauto⟩

/-- The common checks of the text commands fail with the codes 7 and 3 (R291). -/
theorem textError_code {s : State} {t : TextArgs} {e : ErrCode} (h : textError s t = some e) :
    errNumber e ∈ [7, 3, 8] := by
  unfold textError at h
  split_ifs at h <;> cases h <;> decide

/-- The checks of DRAW_IMAGE fail with codes of DRAW_IMAGE (48_image.md R313). -/
theorem imageError_code {s : State} {base size : Nat} {e : ErrCode} (h : imageError s base size = some e) :
    errNumber e ∈ [3, 14, 9, 10, 12, 13, 11, 15] := by
  unfold imageError at h
  dsimp only at h
  split_ifs at h <;> cases h <;> decide

/-! ### What a text keeps -/

/-- What scrolling and painting keep, a whole text keeps, however it ends (47_glyph.md R293). -/
theorem textLoop_preserves {P : State → Prop} (hscroll : ∀ s d, P s → P (s.scrollBy d))
    (hpaint : ∀ s evs, P s → P (s.paint evs)) (t : TextArgs) (more : Nat) :
    ∀ (i : Nat) (r : TextRun), P r.st → P (textLoop t more i r).1.st := by
  have hnewline : ∀ r : TextRun, P r.st → P (newline r).st := by
    intro r h
    unfold newline
    dsimp only
    split
    · exact hpaint _ _ (hscroll _ _ h)
    · exact h
  induction more with
  | zero => exact fun _ _ h => h
  | succ more ih =>
    have hplaced : ∀ (i : Nat) (r : TextRun), P r.st → P (match lookupGlyph r.st (charAt r.st t i) with
        | .trunc => (r, false)
        | .absent => textLoop t more (i + 1) r
        | .found g => textLoop t more (i + 1) (placeGlyph t i g r)).1.st := by
      intro i r h
      split
      · exact h
      · exact ih _ _ h
      · exact ih _ _ (hpaint _ _ h)
    intro i r h
    unfold textLoop
    split
    · exact h
    · rcases wrapStep_cases t i r with e | e | e | e <;> rw [e]
      · exact h
      · exact ih _ _ (hnewline r h)
      · exact hplaced i r h
      · exact hplaced i _ (hnewline r h)

/-- The scroll offset stays on the device through a text (10_state.md R26, 47_glyph.md R296). -/
theorem textLoop_scroll_lt (t : TextArgs) (more i : Nat) (r : TextRun) (h : r.st.scroll < r.st.par.devH) :
    (textLoop t more i r).1.st.scroll < (textLoop t more i r).1.st.par.devH := by
  refine textLoop_preserves (P := fun s => s.scroll < s.par.devH) ?_ (fun _ _ hs => hs) t more i r h
  intro s d hs
  have hpar : (s.scrollBy d).par = s.par := by rw [sameButScroll_scrollBy s d]
  rw [hpar]
  exact scrollBy_lt s d (Nat.zero_lt_of_lt hs) hs

/-! ### How a command can end -/

/-- Command `i`, run on `s`, ends with code `e` and leaves `t`, but for LASTERR and ERRSTICKY, which
`State.endCommand` writes: one constructor for each thing that commands do to the state. -/
inductive CommandEnd (s : State) : Instr → ErrCode → State → Prop
  /-- A failure in phase 1 (60_exceptions.md R342). -/
  | failed {i : Instr} {e : ErrCode} (code : errNumber e ∈ errorCodes i) : CommandEnd s i e s
  | nop : CommandEnd s .nop .ok s
  | foreground {i : Instr} (c : Color) (op : i.opcode = 0x01 ∨ i.opcode = 0x03) (sync : c.InSync) :
    CommandEnd s i .ok { s with fg := c }
  | background {i : Instr} (c : Color) (op : i.opcode = 0x02 ∨ i.opcode = 0x04) (sync : c.InSync) :
    CommandEnd s i .ok { s with bg := c }
  | lineWidth (w : Nat) (pos : 1 ≤ w) (le : w ≤ 255) : CommandEnd s (.setLineWidth w) .ok { s with lineW := w }
  | antialias (on : Bool) : CommandEnd s (.setAntialias on) .ok { s with aa := on }
  | orientation (o : Nat) (d : Orientation) (code : orientOfCode o = some d) :
    CommandEnd s (.setOrientation o) .ok ({ s with orient := d }.emit [.orient d])
  | origin (relative : Bool) : CommandEnd s (.setOrigin relative) .ok { s with origin := relative }
  | scroll (dy : Int) : CommandEnd s (.scroll dy) .ok (s.scrollBy dy)
  | font (base size : Nat) (checked : fontError s base size = none) : CommandEnd s (.setFont base size) .ok { s with
      fontBase := BitVec.ofNat 32 base
      fontSize := BitVec.ofNat 32 size
      fontType := memRead s (base + 2)
      fontLh := memRead s (base + 3)
      fontBl := memRead s (base + 4)
      fontValid := true }
  | textWrap (wrap wrapscroll : Bool) (left right bottom gap : Int) :
    CommandEnd s (.setTextWrap wrap wrapscroll left right bottom gap) .ok { s with
      wrap := wrap
      wrapScroll := wrapscroll
      marginL := BitVec.ofInt 16 left
      marginR := BitVec.ofInt 16 right
      marginB := BitVec.ofInt 16 bottom
      lineGap := BitVec.ofInt 16 gap }
  | errorsCleared : CommandEnd s .clearErr .ok { s with errSticky := 0#16 }
  /-- A drawing that came to its end, in its bracket (20_memory.md R70). -/
  | drawn {i : Instr} (evs : List Event) (op : 0x10 ≤ i.opcode ∧ i.opcode ≤ 0x1B) :
    CommandEnd s i .ok (s.enter.paint evs).leave
  /-- An image that failed in phase 2, its rows so far kept (48_image.md R322). -/
  | imageCut (x y : Int) (base size : Nat) (evs : List Event) :
    CommandEnd s (.drawImage x y base size) .imgBackref ({ s.enter.paint evs with nest := 0 }.emit [.rel])
  /-- A text that came to its end (47_glyph.md R293). -/
  | text (erase haskern : Bool) (x y : Int) (text n kern : Nat) :
    CommandEnd s (.drawText erase haskern x y text n kern) .ok
      (storeCaret (textLoop ⟨erase, haskern, text, n, kern⟩ n 0 ⟨s.enter, x, y⟩).1).leave
  /-- A text that failed in phase 2, at the caret it had reached (R293). -/
  | textCut (erase haskern : Bool) (x y : Int) (text n kern : Nat) :
    CommandEnd s (.drawText erase haskern x y text n kern) .glyphTrunc
      ({ storeCaret (textLoop ⟨erase, haskern, text, n, kern⟩ n 0 ⟨s.enter, x, y⟩).1 with nest := 0 }.emit [.rel])
  | result {i : Instr} (r : Word) (op : i.opcode = 0x20 ∨ i.opcode = 0x26) : CommandEnd s i .ok { s with res := r }
  | readerOpened (base size : Nat) (slice : base + size ≤ s.par.amemSize) (le : size ≤ 0x1FFFFFFF) :
    CommandEnd s (.brOpen base size) .ok { s with
      brBase := BitVec.ofNat 32 base, brSize := BitVec.ofNat 32 size, brPos := 0#32, brOpen := true }
  | read {i : Instr} (r : Nat × BitReader) (op : i.opcode = 0x22 ∨ i.opcode = 0x23 ∨ i.opcode = 0x24) :
    CommandEnd s i .ok (s.storeRead r)
  | blended (tofg : Bool) (alpha : Int) : CommandEnd s (.blendA tofg alpha) .ok
      { s with res := colorWord (s.blended alpha), fg := if tofg then s.blended alpha else s.fg }
  | bounds (physical : Bool) (x1 y1 x2 y2 : Int) (c : Option Rect) :
    CommandEnd s (.xformClip physical x1 y1 x2 y2) .ok (s.storeBounds c)

/-- An outcome is a next state that `CommandEnd` describes. -/
def EndsAs (i : Instr) (s : State) (o : Host.Outcome State Fault Refusal) : Prop :=
  ∃ e t, o = .next (t.endCommand e) ∧ CommandEnd s i e t

theorem EndsAs.complete {i : Instr} {s t : State} (h : CommandEnd s i .ok t) : EndsAs i s (complete t) :=
  ⟨.ok, t, rfl, h⟩

theorem EndsAs.failEarly {i : Instr} {s : State} {e : ErrCode} (code : errNumber e ∈ errorCodes i) :
    EndsAs i s (failEarly e s) :=
  ⟨e, s, rfl, .failed code⟩

theorem EndsAs.drawing {i : Instr} {s : State} (evs : List Event) (op : 0x10 ≤ i.opcode ∧ i.opcode ≤ 0x1B) :
    EndsAs i s (drawing (fun t => t.paint evs) s) :=
  .complete (.drawn evs op)

section
variable (s : State)

theorem execSetLineWidth_ends (w : Nat) : EndsAs (.setLineWidth w) s (execSetLineWidth w s) := by
  unfold execSetLineWidth
  split
  · next h => exact .complete (.lineWidth w h.1 h.2)
  · exact .failEarly (by simp [errNumber, errorCodes])

theorem execSetOrientation_ends (o : Nat) : EndsAs (.setOrientation o) s (execSetOrientation o s) := by
  unfold execSetOrientation
  split
  · next d h => exact .complete (.orientation o d h)
  · exact .failEarly (by simp [errNumber, errorCodes])

theorem execSetFont_ends (base size : Nat) : EndsAs (.setFont base size) s (execSetFont base size s) := by
  unfold execSetFont
  split
  · next e h => exact .failEarly (fontError_code h)
  · next h => exact .complete (.font base size h)

theorem execDrawText_ends (erase haskern : Bool) (x y : Int) (text n kern : Nat) :
    EndsAs (.drawText erase haskern x y text n kern) s (execDrawText erase haskern x y text n kern s) := by
  unfold execDrawText
  dsimp only
  split
  · next e h => exact .failEarly (textError_code h)
  · split
    · exact .complete (.text erase haskern x y text n kern)
    · exact ⟨.glyphTrunc, _, rfl, .textCut erase haskern x y text n kern⟩

theorem execDrawImage_ends (x y : Int) (base size : Nat) :
    EndsAs (.drawImage x y base size) s (execDrawImage x y base size s) := by
  unfold execDrawImage
  dsimp only
  split
  · next e h => exact .failEarly (imageError_code h)
  · split
    · exact .complete (.drawn _ (by simp [Instr.opcode]))
    · exact ⟨.imgBackref, _, rfl, .imageCut x y base size _⟩

theorem execMeasureText_ends (haskern : Bool) (text n kern : Nat) :
    EndsAs (.measureText haskern text n kern) s (execMeasureText haskern text n kern s) := by
  unfold execMeasureText
  dsimp only
  split
  · next e h => exact .failEarly (textError_code h)
  · split
    · exact .failEarly (by simp [errNumber, errorCodes])
    · exact .complete (.result _ (.inl rfl))

theorem execBrOpen_ends (base size : Nat) : EndsAs (.brOpen base size) s (execBrOpen base size s) := by
  unfold execBrOpen
  split
  · exact .failEarly (by simp [errNumber, errorCodes])
  · next hslice =>
    split
    · exact .failEarly (by simp [errNumber, errorCodes])
    · next hsize =>
      simp only [Bool.not_eq_true', Bool.not_eq_false, sliceInRange_iff] at hslice
      exact .complete (.readerOpened base size hslice (by omega))

theorem execBrBit_ends : EndsAs .brBit s (execBrBit s) := by
  unfold execBrBit
  split
  · exact .failEarly (by simp [errNumber, errorCodes])
  · exact .complete (.read _ (.inl rfl))

theorem execBrBits_ends (n : Nat) : EndsAs (.brBits n) s (execBrBits n s) := by
  unfold execBrBits
  split
  · exact .failEarly (by simp [errNumber, errorCodes])
  · split
    · exact .failEarly (by simp [errNumber, errorCodes])
    · exact .complete (.read _ (.inr (.inl rfl)))

theorem execBrNum_ends : EndsAs .brNum s (execBrNum s) := by
  unfold execBrNum
  split
  · exact .failEarly (by simp [errNumber, errorCodes])
  · exact .complete (.read _ (.inr (.inr rfl)))

theorem execBlendO_ends (opacity : Nat) : EndsAs (.blendO opacity) s (execBlendO opacity s) := by
  unfold execBlendO
  split
  · exact .failEarly (by simp [errNumber, errorCodes])
  · exact .complete (.result _ (.inr rfl))

/-- Every command ends as `CommandEnd` says; in particular it answers a next state (60_exceptions.md R340). -/
theorem exec_ends (i : Instr) : EndsAs i s (exec i s) := by
  cases i with
  | nop => exact .complete .nop
  | setFgRgb r g b => exact .complete (.foreground _ (.inl rfl) (colorOf_inSync r g b))
  | setBgRgb r g b => exact .complete (.background _ (.inl rfl) (colorOf_inSync r g b))
  | setFgPacked p => exact .complete (.foreground _ (.inr rfl) (unpack_inSync p))
  | setBgPacked p => exact .complete (.background _ (.inr rfl) (unpack_inSync p))
  | setLineWidth w => exact execSetLineWidth_ends s w
  | setAntialias on => exact .complete (.antialias on)
  | setOrientation o => exact execSetOrientation_ends s o
  | setOrigin relative => exact .complete (.origin relative)
  | scroll dy => exact .complete (.scroll dy)
  | setFont base size => exact execSetFont_ends s base size
  | setTextWrap wrap wrapscroll left right bottom gap =>
    exact .complete (.textWrap wrap wrapscroll left right bottom gap)
  | clearErr => exact .complete .errorsCleared
  | drawPixel | fillRect | hline | vline | drawRect | drawLine | drawCircle | drawOval | drawRoundRect
  | fillRoundRect => exact .drawing _ (by simp [Instr.opcode])
  | drawText erase haskern x y text n kern => exact execDrawText_ends s erase haskern x y text n kern
  | drawImage x y base size => exact execDrawImage_ends s x y base size
  | measureText haskern text n kern => exact execMeasureText_ends s haskern text n kern
  | brOpen base size => exact execBrOpen_ends s base size
  | brBit => exact execBrBit_ends s
  | brBits n => exact execBrBits_ends s n
  | brNum => exact execBrNum_ends s
  | blendA tofg alpha => exact .complete (.blended tofg alpha)
  | blendO opacity => exact execBlendO_ends s opacity
  | xformClip physical x1 y1 x2 y2 => exact .complete (.bounds physical x1 y1 x2 y2 _)

end

/-- A next state of a command is one that `CommandEnd` describes, with LASTERR and ERRSTICKY written. -/
theorem exec_next {i : Instr} {s t : State} (h : exec i s = .next t) :
    ∃ e u, t = u.endCommand e ∧ CommandEnd s i e u := by
  obtain ⟨e, u, hu, hend⟩ := exec_ends s i
  rw [hu] at h
  cases h
  exact ⟨e, u, rfl, hend⟩

/-! ### The frames of the three ways to draw -/

/-- A sub-operation inside a command's bracket adds its events and changes nothing else. -/
theorem State.paint_enter (s : State) (evs : List Event) :
    s.enter.paint evs = { s.enter with events := s.enter.events ++ evs } := by
  simp [State.paint, State.emit, State.enter, State.leave]

/-- A drawing that came to its end changes the event stream alone. -/
theorem bracket_frame (s : State) (evs : List Event) : ∃ out, (s.enter.paint evs).leave = { s with events := out } := by
  rw [State.paint_enter]
  exact ⟨_, rfl⟩

/-- A drawing that was cut off also sets the counter to 0 (60_exceptions.md R342). -/
theorem cut_frame (s : State) (evs : List Event) :
    ∃ out, { s.enter.paint evs with nest := 0 }.emit [.rel] = { s with nest := 0, events := out } := by
  rw [State.paint_enter]
  exact ⟨_, rfl⟩

/-- The state a text leaves inside its bracket: scroll offset, events and caret are its own, and the offset
stays on the device. -/
theorem storeCaret_textLoop (s : State) (t : TextArgs) (n : Nat) (x y : Int) :
    ∃ sc evs cx cy, storeCaret (textLoop t n 0 ⟨s.enter, x, y⟩).1 =
        { s.enter with scroll := sc, events := evs, caretX := cx, caretY := cy } ∧
      (s.scroll < s.par.devH → sc < s.par.devH) := by
  have hframe := textLoop_frame t n 0 ⟨s.enter, x, y⟩
  have hscroll := textLoop_scroll_lt t n 0 ⟨s.enter, x, y⟩
  generalize (textLoop t n 0 ⟨s.enter, x, y⟩).1 = r at hframe hscroll
  obtain ⟨st, cx, cy⟩ := r
  obtain ⟨sc, evs, rfl⟩ : ∃ sc evs, st = { s.enter with scroll := sc, events := evs } := ⟨_, _, hframe⟩
  exact ⟨sc, evs, _, _, rfl, hscroll⟩

/-! ### What no command changes -/

/-- Parameters, asset memory, port and BUSY are as before a command (00_scope.md R11, 20_memory.md R61). -/
structure State.SameOutside (s t : State) : Prop where
  par : t.par = s.par
  amem : t.amem = s.amem
  queue : t.queue = s.queue
  busy : t.busy = s.busy

theorem CommandEnd.sameOutside {s t : State} {i : Instr} {e : ErrCode} (h : CommandEnd s i e t) : s.SameOutside t := by
  cases h with
  | scroll dy =>
    rw [sameButScroll_scrollBy s dy]
    exact ⟨rfl, rfl, rfl, rfl⟩
  | drawn evs op =>
    obtain ⟨out, hout⟩ := bracket_frame s evs
    rw [hout]
    exact ⟨rfl, rfl, rfl, rfl⟩
  | imageCut x y base size evs =>
    obtain ⟨out, hout⟩ := cut_frame s evs
    rw [hout]
    exact ⟨rfl, rfl, rfl, rfl⟩
  | text erase haskern x y text n kern | textCut erase haskern x y text n kern =>
    obtain ⟨sc, evs, cx, cy, hst, _⟩ := storeCaret_textLoop s ⟨erase, haskern, text, n, kern⟩ n x y
    rw [hst]
    exact ⟨rfl, rfl, rfl, rfl⟩
  | bounds physical x1 y1 x2 y2 c => cases c <;> exact ⟨rfl, rfl, rfl, rfl⟩
  | _ => exact ⟨rfl, rfl, rfl, rfl⟩

theorem exec_sameOutside {i : Instr} {s t : State} (h : exec i s = .next t) : s.SameOutside t := by
  obtain ⟨e, u, rfl, hend⟩ := exec_next h
  obtain ⟨hpar, hamem, hqueue, hbusy⟩ := hend.sameOutside
  exact ⟨hpar, hamem, hqueue, hbusy⟩

/-! ### The operands a packet carries -/

theorem fitsS16_iff (v : Int) : fitsS16 v = true ↔ -32768 ≤ v ∧ v ≤ 32767 := by
  simp [fitsS16]

theorem fitsU32_iff (v : Nat) : fitsU32 v = true ↔ v < 2 ^ 32 := by
  simp [fitsU32]

@[simp] theorem fitsS16_readS16 (w : Half) : fitsS16 (readS16 w) = true := by
  have hlo := BitVec.le_toInt w
  have hhi := BitVec.toInt_lt (x := w)
  rw [fitsS16_iff, readS16]
  omega

@[simp] theorem fitsU16_readU16 (w : Half) : fitsU16 (readU16 w) = true := decide_eq_true w.isLt

@[simp] theorem fitsU32_readU32 (lo hi : Half) : fitsU32 (readU32 lo hi) = true := by
  have hlo := lo.isLt
  have hhi := hi.isLt
  rw [fitsU32_iff, readU32]
  omega

/-- A decoded command has each operand in the range of its field (30_encoding.md R96 to R98). -/
theorem decode_wf {p : Packet} {i : Instr} (h : decode p = .ok i) : i.wf = true := by
  unfold decode at h
  split at h <;> cases h <;> simp [Instr.wf]

/-! ### The invariants over a command

Inside a command BUSY is 1 whatever waits in the port, so the invariants are those of the state with BUSY
settled. -/

/-- A command that a packet can carry keeps the invariants up to its end. -/
theorem CommandEnd.inv {s t : State} {i : Instr} {e : ErrCode} (h : CommandEnd s i e t) (hi : i.wf = true)
    (hs : s.settleBusy.Inv) : t.settleBusy.Inv := by
  cases h with
  | foreground c op sync => exact { hs with fg_packed := sync }
  | background c op sync => exact { hs with bg_packed := sync }
  | lineWidth w pos le => exact { hs with lineW_pos := pos, lineW_le := le }
  | scroll dy =>
    have hlt := scrollBy_lt s dy (Nat.zero_lt_of_lt hs.scroll) hs.scroll
    rw [sameButScroll_scrollBy s dy]
    exact { hs with scroll := hlt }
  | font base size checked =>
    obtain ⟨hslice, hsize, htype⟩ := fontError_none checked
    have hfits : size < 2 ^ 32 := by
      simp only [Instr.wf, Bool.and_eq_true, fitsU32_iff] at hi
      exact hi.2
    have hbase : (BitVec.ofNat 32 base).toNat ≤ base := Nat.mod_le _ _
    have hsame : (BitVec.ofNat 32 size).toNat = size := Nat.mod_eq_of_lt hfits
    have hslice' : (BitVec.ofNat 32 base).toNat + (BitVec.ofNat 32 size).toNat ≤ s.par.amemSize := by omega
    exact { hs with
      font_slice := fun _ => hslice'
      font_size := fun _ => hsame.symm ▸ hsize
      font_type := fun _ => htype }
  | errorsCleared => exact { hs with sticky := BitVec.getLsbD_zero }
  | drawn evs op =>
    obtain ⟨out, hout⟩ := bracket_frame s evs
    rw [hout]
    exact { hs with }
  | imageCut x y base size evs =>
    obtain ⟨out, hout⟩ := cut_frame s evs
    rw [hout]
    exact { hs with nest := rfl }
  | text erase haskern x y text n kern =>
    obtain ⟨sc, evs, cx, cy, hst, hsc⟩ := storeCaret_textLoop s ⟨erase, haskern, text, n, kern⟩ n x y
    rw [hst]
    exact { hs with scroll := hsc hs.scroll }
  | textCut erase haskern x y text n kern =>
    obtain ⟨sc, evs, cx, cy, hst, hsc⟩ := storeCaret_textLoop s ⟨erase, haskern, text, n, kern⟩ n x y
    rw [hst]
    exact { hs with scroll := hsc hs.scroll, nest := rfl }
  | readerOpened base size slice le =>
    have hbase : (BitVec.ofNat 32 base).toNat ≤ base := Nat.mod_le _ _
    have hsize : (BitVec.ofNat 32 size).toNat ≤ size := Nat.mod_le _ _
    exact { hs with
      reader_slice := fun _ => (Nat.add_le_add hbase hsize).trans slice
      reader_size := fun _ => hsize.trans le }
  | blended tofg alpha =>
    have hfg : (if tofg then s.blended alpha else s.fg).InSync := by
      split
      · exact blendAlpha_inSync s.fg alpha hs.bg_packed
      · exact hs.fg_packed
    exact { hs with fg_packed := hfg }
  | bounds physical x1 y1 x2 y2 c => cases c <;> exact { hs with }
  | _ => exact { hs with }

/-- The sticky bit 0 stays as it is at the end of a command (60_exceptions.md R343). -/
theorem stickyAfter_bit0 (e : ErrCode) (sticky : Half) : (stickyAfter e sticky).getLsbD 0 = sticky.getLsbD 0 := by
  cases e <;> simp [stickyAfter, errNumber]

theorem errNumber_le (e : ErrCode) : errNumber e ≤ 15 := by
  cases e <;> simp [errNumber]

/-- The end of a command keeps the invariants. -/
theorem endCommand_inv {s : State} (e : ErrCode) (hs : s.settleBusy.Inv) : (s.endCommand e).settleBusy.Inv :=
  { hs with
    sticky := (stickyAfter_bit0 e s.errSticky).trans hs.sticky
    lastErr := (Nat.mod_le _ _).trans (errNumber_le e) }

end Sys2Proof.Machine
end

section
/-! SUPPORT. One step, once: what it does to port and BUSY, that it always answers, and what it keeps. Then the
statements about the step, the invariants and the writers of each field. -/

namespace Sys2Proof.Machine

/-! ### The step -/

/-- A step on an empty port only settles BUSY. -/
theorem step_nil {s : State} (hq : s.queue = []) : step s = .next s.settleBusy := by
  simp [step, hq]

/-- A step on a packet of a command runs that command, with the packet taken. -/
theorem step_cons_ok {s : State} {p : Packet} {rest : List Packet} {i : Instr} (hq : s.queue = p :: rest)
    (hp : decode p = .ok i) : step s = settle (exec i (s.takePacket rest)) := by
  simp [step, hq, hp]

/-- A step on a packet with a reserved opcode fails with code 1 (60_exceptions.md R345). -/
theorem step_cons_error {s : State} {p : Packet} {rest : List Packet} {r : DecodeError} (hq : s.queue = p :: rest)
    (hp : decode p = .error r) :
    step s = .next ((s.takePacket rest).endCommand .illegalCmd).settleBusy := by
  simp [step, hq, hp, illegalCommand, failEarly, settle]

/-- Everything a step can do: wait, run the command at the head of the port, or refuse a reserved opcode. -/
theorem step_cases (s : State) :
    (s.queue = [] ∧ step s = .next s.settleBusy) ∨
      ∃ p rest, s.queue = p :: rest ∧
        ((∃ i t, decode p = .ok i ∧ exec i (s.takePacket rest) = .next t ∧ step s = .next t.settleBusy) ∨
          step s = .next ((s.takePacket rest).endCommand .illegalCmd).settleBusy) := by
  cases hq : s.queue with
  | nil => exact .inl ⟨rfl, step_nil hq⟩
  | cons p rest =>
    refine .inr ⟨p, rest, rfl, ?_⟩
    cases hp : decode p with
    | error r => exact .inr (step_cons_error hq hp)
    | ok i =>
      obtain ⟨e, t, ht, _⟩ := exec_ends (s.takePacket rest) i
      exact .inl ⟨i, _, rfl, ht, by rw [step_cons_ok hq hp, ht, settle_next]⟩

/-- A step answers a next state, one packet shorter, with BUSY settled; parameters and asset memory stay. -/
theorem step_takes_head (s : State) :
    ∃ t, step s = .next t ∧ t.queue = s.queue.tail ∧ t.busy = !s.queue.tail.isEmpty ∧ t.par = s.par ∧
      t.amem = s.amem := by
  rcases step_cases s with ⟨hq, hs⟩ | ⟨p, rest, hq, ⟨i, t, _, ht, hs⟩ | hs⟩
  · exact ⟨_, hs, by simp [hq]⟩
  · obtain ⟨hpar, hamem, hqueue, _⟩ := exec_sameOutside ht
    exact ⟨_, hs, by simp [hq, hpar, hamem, hqueue]⟩
  · exact ⟨_, hs, by simp [hq]⟩

/-- The invariants do not depend on the packets that wait, once BUSY is settled. -/
theorem takePacket_inv {s : State} (rest : List Packet) (hs : s.Inv) : (s.takePacket rest).settleBusy.Inv :=
  { hs with busy := rfl }

/-- Settles O8: the invariants hold of the state that has taken its packet, of the state the command leaves, and
of the state after the end of the command. -/
theorem stepKeepsInvariant : Obligations.StepKeepsInvariant := by
  intro s t hs ht
  have hwait : s.settleBusy.Inv := { hs with busy := rfl }
  rcases step_cases s with ⟨_, he⟩ | ⟨p, rest, _, ⟨i, u, hp, hu, he⟩ | he⟩ <;> rw [he] at ht <;> cases ht
  · exact hwait
  · obtain ⟨e, v, rfl, hend⟩ := exec_next hu
    exact endCommand_inv e (hend.inv (decode_wf hp) (takePacket_inv rest hs))
  · exact endCommand_inv .illegalCmd (takePacket_inv rest hs)

/-- Settles O6: a step takes the head of the port and leaves the rest in order. -/
theorem stepTakesOnePacketInOrder : Obligations.StepTakesOnePacketInOrder := by
  intro s
  refine ⟨fun hq => ?_, fun p rest hq => ?_⟩
  · rw [step_nil hq, State.settleBusy, hq]
    rfl
  · simpa only [hq, List.tail_cons] using step_takes_head s

/-- Settles O5: the state with the packet taken is `takePacket`, and `settle` gives BUSY. -/
theorem stepRunsDecodedCommand : Obligations.StepRunsDecodedCommand := by
  intro s p rest i hq hp t ht
  have hrun : exec i (s.takePacket rest) = .next t := ht
  rw [step_cons_ok hq hp, hrun, settle_next]
  rfl

/-! ### Which command writes which field -/

/-- Settles O18: each constructor of `CommandEnd` names the commands it stands for and the fields it writes. -/
theorem onlyNamedCommandsWriteAField : Obligations.OnlyNamedCommandsWriteAField := by
  intro i s t h
  obtain ⟨e, u, rfl, hend⟩ := exec_next h
  cases hend with
  | scroll dy =>
    rw [sameButScroll_scrollBy s dy]
    simp [Instr.opcode]
  | text erase haskern x y text n kern | textCut erase haskern x y text n kern =>
    obtain ⟨sc, evs, cx, cy, hst, _⟩ := storeCaret_textLoop s ⟨erase, haskern, text, n, kern⟩ n x y
    simp [hst, Instr.opcode]
  | bounds physical x1 y1 x2 y2 c => cases c <;> simp [State.storeBounds, Instr.opcode]
  | foreground c op sync | background c op sync | result r op => rcases op with op | op <;> simp [op]
  | read r op => rcases op with op | op | op <;> simp [op, State.storeRead]
  | _ => simp [Instr.opcode]

end Sys2Proof.Machine
end

section
/-! SUPPORT. Reset, the register port, and the host that polls BUSY; then the statements about them. -/

namespace Sys2Proof.Machine

/-! ### Reset -/

/-- Reset of a block with legal parameters and well-formed asset memory meets the invariants (10_state.md R46,
70_reset_and_hazards.md R360). -/
theorem hostReset_inv {s : State} (hpar : s.par.wf = true) (hmem : s.amem.wf = true)
    (hrange : ∀ c ∈ s.amem, c.1 < s.par.amemSize) : s.hostReset.Inv := by
  have hdev : 0 < s.par.devH := by
    simp only [Params.wf, Bool.and_eq_true, decide_eq_true_eq] at hpar
    omega
  exact {
    params := hpar
    scroll := hdev
    lineW_pos := Nat.le_refl 1
    lineW_le := (by decide : 1 ≤ 255)
    fg_packed := (by decide : 0xFFFF#16 = pack 255 255 255)
    bg_packed := (by decide : 0#16 = pack 0 0 0)
    nest := rfl
    font_slice := nofun
    font_size := nofun
    font_type := nofun
    reader_slice := nofun
    reader_size := nofun
    sticky := BitVec.getLsbD_zero
    lastErr := Nat.zero_le 15
    busy := rfl
    memory := hmem
    memory_range := hrange }

/-- Settles O7: the state after reset is the reset of itself, with the default parameters and no byte listed. -/
theorem resetMeetsInvariant : Obligations.ResetMeetsInvariant :=
  hostReset_inv (s := State.reset) (by decide) rfl nofun

/-- Settles O10: each field is read off the table of `State.reset`. -/
theorem resetValues : Obligations.ResetValues :=
  fun _ => ⟨rfl, by decide⟩

/-! ### The register port -/

theorem bne_eq_decide_ne {w : Nat} (a b : BitVec w) : (a != b) = decide (a ≠ b) := by
  rw [Bool.eq_iff_iff]
  simp

/-- A word made of five flag bits, the first at bit 0, read bit by bit. -/
theorem flagWord_getLsbD (a b c d e : Bool) (k : Nat) :
    (BitVec.ofNat 16 (a.toNat + 2 * b.toNat + 4 * c.toNat + 8 * d.toNat + 16 * e.toNat)).getLsbD k =
      [a, b, c, d, e].getD k false := by
  match k with
  | 0 | 1 | 2 | 3 | 4 => revert a b c d e; decide
  | k + 5 =>
    have hlt : a.toNat + 2 * b.toNat + 4 * c.toNat + 8 * d.toNat + 16 * e.toNat < 2 ^ (k + 5) := by
      have hpow : 2 ^ 5 ≤ 2 ^ (k + 5) := Nat.pow_le_pow_right (by decide) (by omega)
      have := a.toNat_le; have := b.toNat_le; have := c.toNat_le; have := d.toNat_le; have := e.toNat_le
      omega
    simp [BitVec.getLsbD_ofNat, Nat.testBit_lt_two_pow hlt]

theorem orientCode_le (o : Orientation) : orientCode o ≤ 3 := by
  cases o <;> decide

/-- MODE does not wrap: it is the sum of its fields (10_state.md R40). -/
theorem modeWord_toNat (s : State) :
    (modeWord s).toNat = orientCode s.orient + 4 * s.origin.toNat + 8 * s.aa.toNat + 16 * s.wrap.toNat
      + 32 * s.wrapScroll.toNat := by
  have := orientCode_le s.orient
  have := s.origin.toNat_le; have := s.aa.toNat_le; have := s.wrap.toNat_le; have := s.wrapScroll.toNat_le
  rw [modeWord, BitVec.toNat_ofNat]
  exact Nat.mod_eq_of_lt (by omega)

/-- The registers from 0x28 read 0 (R41). -/
theorem readRegister_unmapped (s : State) (index : Byte) (h : 0x28 ≤ index.toNat) : s.readRegister index = 0 := by
  unfold State.readRegister
  split
  case h_41 => rfl
  all_goals omega

/-- The high and the low half of a 32-bit register (R41). -/
theorem halves_append (w : Word) : (w.extractLsb' 16 16 ++ w.extractLsb' 0 16 : Word) = w :=
  BitVec.extractLsb'_append_extractLsb'

/-- Settles O13: STATUS is a word of five flags, MODE does not wrap, a pair holds the halves of its register. -/
theorem registerPortReadsTheMap : Obligations.RegisterPortReadsTheMap := by
  intro s
  refine ⟨fun k => ?_, modeWord_toNat s, halves_append s.fontBase, halves_append s.fontSize, halves_append s.res,
    halves_append s.brPos, readRegister_unmapped s⟩
  have hbits : (s.readRegister 0x01).getLsbD k =
      [s.busy, s.lastErr != 0, s.fontValid, s.brOpen, s.errSticky != 0].getD k false :=
    flagWord_getLsbD _ _ _ _ _ k
  rw [hbits]
  match k with
  | 0 | 2 | 3 => rfl
  | 1 | 4 => exact bne_eq_decide_ne _ _
  | k + 5 => rfl

/-! ### The polling host -/

/-- The state after the next step; `step_nextState` says that there always is one. -/
def nextState (s : State) : State :=
  match step s with
  | .next t => t
  | .fault _ => s
  | .refused _ => s

theorem step_nextState (s : State) : step s = .next (nextState s) := by
  obtain ⟨t, ht, _⟩ := step_takes_head s
  simp [nextState, ht]

theorem nextState_queue (s : State) : (nextState s).queue = s.queue.tail := by
  obtain ⟨t, ht, hqueue, _⟩ := step_takes_head s
  simpa [nextState, ht] using hqueue

theorem nextState_busy (s : State) : (nextState s).busy = !(nextState s).queue.isEmpty := by
  obtain ⟨t, ht, hqueue, hbusy, _⟩ := step_takes_head s
  simpa [nextState, ht, hqueue] using hbusy

/-- After `k` steps the first `k` packets have left the port, and BUSY says whether any is left
(70_reset_and_hazards.md R367). -/
theorem nextState_iterate {s : State} (hbusy : s.busy = !s.queue.isEmpty) (k : Nat) :
    (nextState^[k] s).queue = s.queue.drop k ∧ (nextState^[k] s).busy = !(s.queue.drop k).isEmpty := by
  induction k with
  | zero => exact ⟨rfl, hbusy⟩
  | succ k ih =>
    obtain ⟨hqueue, _⟩ := ih
    have hdrop : (nextState^[k + 1] s).queue = s.queue.drop (k + 1) := by
      rw [Function.iterate_succ_apply', nextState_queue, hqueue, List.tail_drop]
    refine ⟨hdrop, ?_⟩
    rw [← hdrop, Function.iterate_succ_apply', nextState_busy]

theorem portRead_busy {s : State} (h : s.portBusy = true) (index : Byte) : s.portRead index = none :=
  if_pos h

theorem portRead_idle {s : State} (h : s.portBusy = false) (index : Byte) :
    s.portRead index = some (s.readRegister index) := by
  have hidle : s.busy = false := h
  simp [State.portRead, hidle]

/-- An idle block has an empty port, and accepts a packet (10_state.md R36, R47). -/
theorem hostWriteCommand_idle {s : State} (hs : s.Inv) (hidle : s.portBusy = false) (p : Packet) :
    s.hostWriteCommand p = some { s with queue := [p], busy := true } := by
  have hempty : s.queue = [] := by
    have hbusy : s.busy = false := hidle
    simpa [hbusy] using hs.busy
  have hdepth : 1 ≤ s.par.cmdFifoDepth := by
    have hpar := hs.params
    simp only [Params.wf, Bool.and_eq_true, decide_eq_true_eq] at hpar
    exact hpar.2
  have hroom : s.queue.tail.length < s.par.cmdFifoDepth := by rw [hempty]; exact hdepth
  rw [State.hostWriteCommand, if_pos hroom, hempty]
  rfl

/-- The step after a packet was written to an idle block runs it and ends with BUSY at 0 (R366). -/
theorem step_written {s t : State} {p : Packet} (ht : t = { s with queue := [p], busy := true }) :
    ∃ u, step t = .next u ∧ u.portBusy = false ∧
      ∀ i, decode p = .ok i →
        ∃ v, exec i { s with queue := [], busy := true } = .next v ∧ u = { v with busy := false } := by
  have hqueue : t.queue = [p] := by rw [ht]
  obtain ⟨u, hstep, _, hbusy, _⟩ := step_takes_head t
  rw [hqueue] at hbusy
  refine ⟨u, hstep, hbusy, fun i hi => ?_⟩
  obtain ⟨e, v, hv, _⟩ := exec_ends (t.takePacket []) i
  have hv' : exec i { s with queue := [], busy := true } = .next (v.endCommand e) := by rw [← hv, ht]; rfl
  refine ⟨_, hv', ?_⟩
  have hsettled : u = (v.endCommand e).settleBusy := by
    rw [step_cons_ok hqueue hi, hv, settle_next] at hstep
    cases hstep
    rfl
  have hnone : (v.endCommand e).queue = [] := (exec_sameOutside hv).queue
  rw [hsettled, State.settleBusy, hnone]
  rfl

/-- Settles O12: the packet written to an idle block is run by the very next step; from any other state BUSY
counts the packets of the port down. -/
theorem pollingHostReadsItsResult : Obligations.PollingHostReadsItsResult := by
  intro s hs
  refine ⟨fun hidle p => ?_, fun p t ht => ?_⟩
  · obtain ⟨u, hstep, hdone, hran⟩ := step_written (s := s) (p := p) rfl
    exact ⟨_, u, hostWriteCommand_idle hs hidle p, rfl, portRead_busy rfl, hstep, hdone, portRead_idle hdone, hran⟩
  · obtain ⟨_, rfl⟩ := hostWriteCommand_spec s t p ht
    generalize hw : ({ s with queue := s.queue ++ [p], busy := true } : State) = w
    have hbusy : w.busy = !w.queue.isEmpty := by simp [← hw]
    have hport : ∀ k, (nextState^[k] w).portBusy = !(w.queue.drop k).isEmpty :=
      fun k => (nextState_iterate hbusy k).2
    have hend : (nextState^[w.queue.length] w).portBusy = false := by simp [hport]
    refine ⟨fun k => nextState^[k] w, rfl, fun k hk => ?_, hend, portRead_idle hend⟩
    have hwaits : (nextState^[k] w).portBusy = true := by
      simp only [hport, Bool.not_eq_true', List.isEmpty_eq_false_iff, ne_eq, List.drop_eq_nil_iff]
      omega
    refine ⟨hwaits, portRead_busy hwaits, ?_⟩
    dsimp only
    rw [Function.iterate_succ_apply']
    exact step_nextState _

end Sys2Proof.Machine
end

section
/-! SUPPORT. What stands inside a bracket, said once: `Painted`, the sequences of events that the operations of a
drawing build, with the two facts about them (they fill their windows, they hold no ACQ and no REL). Then that
every drawing function builds such a sequence. -/

namespace Sys2Proof.Machine

/-! ### The rows of an image -/

/-- The pixels of a part of a row are one PIX for each place of the part (48_image.md R325). -/
theorem partPixels_eq_map (s : State) (x : Int) (row : List Half) (x1 y0 : Int) (cols rows : Nat) :
    ∃ cs : List Half, cs.length = cols * rows ∧ partPixels s x row x1 y0 cols rows = cs.map .pix := by
  refine ⟨(List.range rows).flatMap fun k => (List.range cols).map fun j =>
    row.getD ((transformPointInv s (x1 + j) (y0 + k)).1 - x).toNat 0#16, ?_, ?_⟩
  · simp [List.length_flatMap, Nat.mul_comm]
  · simp [partPixels, List.map_flatMap]

/-- A part of a row on the device is a window and exactly its pixels (20_memory.md R71, R72). -/
theorem windowsFilled_rowPart (s : State) (x : Int) (row : List Half) (x1 ya x2 yb y0 : Int) (h1 : 0 ≤ x1)
    (h2 : x1 ≤ x2) (h3 : x2 < s.par.devW) (h4 : 0 ≤ ya) (h5 : ya ≤ yb) (h6 : yb < s.par.devH) :
    windowsFilled s.par (rowPart s x row x1 ya x2 yb y0) := by
  obtain ⟨cs, hlen, hpix⟩ := partPixels_eq_map s x row x1 y0 (x2 - x1 + 1).toNat (yb - ya + 1).toNat
  have hx : (x2 - x1 + 1).toNat = x2.toNat - x1.toNat + 1 := by omega
  have hy : (yb - ya + 1).toNat = yb.toNat - ya.toNat + 1 := by omega
  rw [rowPart, hpix]
  exact windowsFilled_region s.par _ _ _ _ cs (by omega) (by omega) (by omega) (by omega) (by rw [hlen, hx, hy])

/-- `emitRow` emits nothing, or one part, or two where the shifted rows wrap (48_image.md R325). -/
theorem emitRow_cases (s : State) (x ly : Int) (row : List Half) :
    emitRow s x ly row = [] ∨
      ∃ b : Rect, toDevice s ⟨x, ly, x + row.length - 1, ly⟩ = some b ∧
        ((scrollShift s b.y1 ≤ scrollShift s b.y2 ∧
            emitRow s x ly row = rowPart s x row b.x1 (scrollShift s b.y1) b.x2 (scrollShift s b.y2) b.y1) ∨
          (scrollShift s b.y2 < scrollShift s b.y1 ∧
            emitRow s x ly row = rowPart s x row b.x1 (scrollShift s b.y1) b.x2 (s.par.devH - 1) b.y1
              ++ rowPart s x row b.x1 0 b.x2 (scrollShift s b.y2)
                  (b.y1 + (s.par.devH - scrollShift s b.y1)))) := by
  unfold emitRow
  split
  · exact .inl rfl
  · next b hb =>
    refine .inr ⟨b, hb, ?_⟩
    by_cases h : scrollShift s b.y1 ≤ scrollShift s b.y2
    · exact .inl ⟨h, if_pos h⟩
    · exact .inr ⟨by omega, if_neg h⟩

theorem windowsFilled_emitRow (s : State) (x ly : Int) (row : List Half) (hW : 0 < s.par.devW)
    (hH : 0 < s.par.devH) : windowsFilled s.par (emitRow s x ly row) := by
  rcases emitRow_cases s x ly row with h | ⟨b, hb, h⟩
  · rw [h]; exact windowsFilled_nil _
  · obtain ⟨hx1, hx, hx2, hy1, hy, hy2⟩ := toDevice_bounds s _ b hW hH hb
    obtain ⟨ha, ha'⟩ := scrollShift_range s b.y1 hy1 (by omega)
    obtain ⟨hz, hz'⟩ := scrollShift_range s b.y2 (by omega) hy2
    rcases h with ⟨hle, h⟩ | ⟨_, h⟩ <;> rw [h]
    · exact windowsFilled_rowPart s x row _ _ _ _ _ hx1 hx hx2 ha hle hz'
    · exact windowsFilled_append
        (windowsFilled_rowPart s x row _ _ _ _ _ hx1 hx hx2 ha (by omega) (by omega))
        (windowsFilled_rowPart s x row _ _ _ _ _ hx1 hx hx2 (le_refl _) hz hz')

/-! ### What stands inside a bracket -/

/-- The sequences of events that pixels, fills, image rows and the scroll steps of a text build, over the parameters
they were computed with. -/
inductive Painted : Params → List Event → Prop
  | nil (p : Params) : Painted p []
  | append {p : Params} {xs ys : List Event} (hx : Painted p xs) (hy : Painted p ys) : Painted p (xs ++ ys)
  | pixel (s : State) (c : Color) (x y : Int) : Painted s.par (pixel s c x y)
  | fill (s : State) (c : Color) (x1 y1 x2 y2 : Int) : Painted s.par (fill s c x1 y1 x2 y2)
  | row (s : State) (x ly : Int) (cs : List Half) : Painted s.par (emitRow s x ly cs)
  | scroll (s : State) (d : Int) : Painted s.par [.scrollCmd ((s.scroll + d) % s.par.devH).toNat]

/-- A scroll event carries a row of the device (20_memory.md R66). -/
theorem scrollOffset_lt (s : State) (d : Int) (hH : 0 < s.par.devH) :
    ((s.scroll + d) % s.par.devH).toNat < s.par.devH := by
  have hlo := Int.emod_nonneg (s.scroll + d) (by omega : (s.par.devH : Int) ≠ 0)
  have hhi := Int.emod_lt_of_pos (s.scroll + d) (by omega : (0 : Int) < s.par.devH)
  omega

/-- What a drawing paints on a device fills every window it declares (20_memory.md R71, R72). -/
theorem Painted.windowsFilled {p : Params} {evs : List Event} (h : Painted p evs) (hW : 0 < p.devW)
    (hH : 0 < p.devH) : windowsFilled p evs := by
  induction h with
  | nil p => exact windowsFilled_nil p
  | append _ _ ihx ihy => exact windowsFilled_append (ihx hW hH) (ihy hW hH)
  | pixel s c x y => exact windowsFilled_pixel s c x y hW hH
  | fill s c x1 y1 x2 y2 => exact windowsFilled_fill s c x1 y1 x2 y2 hW hH
  | row s x ly cs => exact windowsFilled_emitRow s x ly cs hW hH
  | scroll s d => simp [Machine.windowsFilled, streamScan, streamStep, scrollOffset_lt s d hH]

/-- An event that neither takes nor releases the bus. -/
def Event.KeepsBus (e : Event) : Prop := e ≠ .acq ∧ e ≠ .rel

theorem pixel_keepsBus (s : State) (c : Color) (x y : Int) : ∀ e ∈ pixel s c x y, e.KeepsBus := by
  unfold pixel
  split
  · simp
  · split <;> simp [Event.KeepsBus]

theorem regionRun_keepsBus (c : Color) (x1 y1 x2 y2 : Int) : ∀ e ∈ regionRun c x1 y1 x2 y2, e.KeepsBus := by
  simp [regionRun, Event.KeepsBus]

theorem fill_keepsBus (s : State) (c : Color) (x1 y1 x2 y2 : Int) : ∀ e ∈ fill s c x1 y1 x2 y2, e.KeepsBus := by
  rcases fill_cases s c x1 y1 x2 y2 with h | ⟨b, _, ⟨_, h⟩ | ⟨_, h⟩⟩ <;> rw [h]
  · simp
  · exact regionRun_keepsBus _ _ _ _ _
  · exact List.forall_mem_append.2 ⟨regionRun_keepsBus _ _ _ _ _, regionRun_keepsBus _ _ _ _ _⟩

theorem rowPart_keepsBus (s : State) (x : Int) (row : List Half) (x1 ya x2 yb y0 : Int) :
    ∀ e ∈ rowPart s x row x1 ya x2 yb y0, e.KeepsBus := by
  obtain ⟨cs, _, hpix⟩ := partPixels_eq_map s x row x1 y0 (x2 - x1 + 1).toNat (yb - ya + 1).toNat
  simp [rowPart, hpix, Event.KeepsBus]

theorem emitRow_keepsBus (s : State) (x ly : Int) (row : List Half) : ∀ e ∈ emitRow s x ly row, e.KeepsBus := by
  rcases emitRow_cases s x ly row with h | ⟨b, _, ⟨_, h⟩ | ⟨_, h⟩⟩ <;> rw [h]
  · simp
  · exact rowPart_keepsBus _ _ _ _ _ _ _ _
  · exact List.forall_mem_append.2 ⟨rowPart_keepsBus _ _ _ _ _ _ _ _, rowPart_keepsBus _ _ _ _ _ _ _ _⟩

/-- Nothing that a drawing paints opens or closes a bracket (20_memory.md R70). -/
theorem Painted.keepsBus {p : Params} {evs : List Event} (h : Painted p evs) : ∀ e ∈ evs, e.KeepsBus := by
  induction h with
  | nil p => simp
  | append _ _ ihx ihy => exact List.forall_mem_append.2 ⟨ihx, ihy⟩
  | pixel s c x y => exact pixel_keepsBus s c x y
  | fill s c x1 y1 x2 y2 => exact fill_keepsBus s c x1 y1 x2 y2
  | row s x ly cs => exact emitRow_keepsBus s x ly cs
  | scroll s d => simp [Event.KeepsBus]

theorem Painted.flatMap {α : Type} {p : Params} {f : α → List Event} (h : ∀ x, Painted p (f x)) (xs : List α) :
    Painted p (xs.flatMap f) := by
  induction xs with
  | nil => exact .nil p
  | cons x xs ih => exact .append (h x) ih

/-! ### The basic shapes -/

section
variable (s : State)

theorem painted_hline (c : Color) (x1 y x2 : Int) : Painted s.par (hline s c x1 y x2) := .fill s c x1 y x2 y

theorem painted_vline (c : Color) (x y1 y2 : Int) : Painted s.par (vline s c x y1 y2) := .fill s c x y1 x y2

theorem painted_rectOutline (c : Color) (x y w h : Int) : Painted s.par (rectOutline s c x y w h) := by
  unfold rectOutline
  split
  · exact .nil _
  · exact (((painted_hline s c _ _ _).append (painted_hline s c _ _ _)).append (painted_vline s c _ _ _)).append
      (painted_vline s c _ _ _)

theorem painted_fillRectEvents (x y w h : Int) : Painted s.par (fillRectEvents s x y w h) := by
  unfold fillRectEvents
  split
  · exact .fill ..
  · exact .nil _

/-! ### Lines -/

theorem painted_plots (ps : List Plot) : Painted s.par (ps.flatMap (plotPixel s)) :=
  .flatMap (f := plotPixel s) (fun p => .pixel s (s.blended p.a) p.x p.y) ps

theorem painted_bresLine (x1 y1 x2 y2 : Int) : Painted s.par (bresLine s x1 y1 x2 y2) :=
  .flatMap (fun p : Int × Int => .pixel s s.fg p.1 p.2) _

/-- Each of the five rasterizers of DRAW_LINE paints (45_raster_line.md R220). -/
theorem painted_drawLineEvents (x1 y1 x2 y2 : Int) : Painted s.par (drawLineEvents s x1 y1 x2 y2) := by
  unfold drawLineEvents
  split_ifs
  · exact painted_hline s s.fg _ _ _
  · exact painted_vline s s.fg _ _ _
  · exact painted_bresLine s _ _ _ _
  · exact painted_plots s _
  · exact painted_plots s _

/-! ### Round shapes -/

theorem painted_plot4 (c : Color) (k : Centres) (dx dy : Int) : Painted s.par (plot4 s c k dx dy) :=
  (((Painted.pixel s c _ _).append (.pixel s c _ _)).append (.pixel s c _ _)).append (.pixel s c _ _)

theorem painted_stampOctants (k : Centres) (pairs : List (Int × Int)) : Painted s.par (stampOctants s k pairs) :=
  .flatMap (fun _ => .append (painted_plot4 s s.fg k _ _) (painted_plot4 s s.fg k _ _)) pairs

theorem painted_ovalStamp (k : Centres) (rx ry : Int) (p : Int × Int) : Painted s.par (ovalStamp s k rx ry p) := by
  unfold ovalStamp
  split <;> exact .append (painted_plot4 s s.fg k _ _) (painted_plot4 s s.fg k _ _)

theorem painted_ovalDDA (k : Centres) (rx ry : Int) : Painted s.par (ovalDDA s k rx ry) :=
  .flatMap (painted_ovalStamp s k rx ry) _

theorem painted_straightEdges (b : Rect) (k : Centres) : Painted s.par (straightEdges s b k) :=
  (((painted_hline s s.fg _ _ _).append (painted_hline s s.fg _ _ _)).append (painted_vline s s.fg _ _ _)).append
    (painted_vline s s.fg _ _ _)

theorem painted_roundOutline (b : Rect) (r : Int) : Painted s.par (roundOutline s b r) :=
  (painted_straightEdges s b _).append (painted_stampOctants s _ _)

theorem painted_cornerSpans (k : Centres) (dx dy : Int) : Painted s.par (cornerSpans s k dx dy) :=
  (painted_hline s s.fg _ _ _).append (painted_hline s s.fg _ _ _)

theorem painted_roundFill (b : Rect) (r : Int) : Painted s.par (roundFill s b r) :=
  (Painted.fill s s.fg _ _ _ _).append
    (.flatMap (fun _ => (painted_cornerSpans s _ _ _).append (painted_cornerSpans s _ _ _)) _)

theorem painted_aaPlot4 (k : Centres) (rx ry : Int) (c : Color) (col row : Int) :
    Painted s.par (aaPlot4 s k rx ry c col row) := by
  unfold aaPlot4
  split
  · exact .nil _
  · exact (((Painted.pixel s c _ _).append (.pixel s c _ _)).append (.pixel s c _ _)).append (.pixel s c _ _)

theorem painted_aaEdge (k : Centres) (rx ry : Int) (border : Bool) (st : AaStep) :
    Painted s.par (aaEdge s k rx ry border st) := by
  refine .append (painted_aaPlot4 s k rx ry _ _ _) ?_
  split <;> exact painted_aaPlot4 s k rx ry _ _ _

theorem painted_aaInterior (k : Centres) (st : AaStep) : Painted s.par (aaInterior s k st) := by
  unfold aaInterior
  dsimp only
  split_ifs
  · exact (((painted_vline s s.fg _ _ _).append (painted_vline s s.fg _ _ _)).append
      (painted_vline s s.fg _ _ _)).append (painted_vline s s.fg _ _ _)
  · exact .nil _
  · exact (((painted_hline s s.fg _ _ _).append (painted_hline s s.fg _ _ _)).append
      (painted_hline s s.fg _ _ _)).append (painted_hline s s.fg _ _ _)
  · exact .nil _

/-- The coverage path paints its edges, its steps and, in fill mode, its interior (46_raster_round.md R257). -/
theorem painted_aaRound (b : Rect) (rx ry : Int) (border : Bool) : Painted s.par (aaRound s b rx ry border) := by
  have hsteps : Painted s.par ((aaSteps rx ry).flatMap (aaEdge s (boxCentres b rx ry) rx ry border)) :=
    .flatMap (painted_aaEdge s _ rx ry border) _
  cases border with
  | true => exact ((painted_straightEdges s b _).append hsteps).append (.nil _)
  | false =>
    exact ((Painted.nil _).append hsteps).append
      (((Painted.flatMap (painted_aaInterior s _) _).append (.fill s s.fg _ _ _ _)).append (.fill s s.fg _ _ _ _))

theorem painted_circleEvents (xc yc r : Int) : Painted s.par (circleEvents s xc yc r) := by
  unfold circleEvents
  split_ifs
  · exact .nil _
  · exact painted_aaRound s _ _ _ _
  · exact painted_stampOctants s _ _

theorem painted_ovalEvents (x y w h : Int) : Painted s.par (ovalEvents s x y w h) := by
  unfold ovalEvents
  dsimp only
  split_ifs
  · exact .nil _
  · exact painted_rectOutline s s.fg x y w h
  · exact painted_aaRound s _ _ _ _
  · exact painted_ovalDDA s _ _ _

theorem painted_roundRectEvents (x y w h r : Int) : Painted s.par (roundRectEvents s x y w h r) := by
  unfold roundRectEvents
  dsimp only
  split_ifs
  · exact .nil _
  · exact painted_rectOutline s s.fg x y w h
  · exact painted_aaRound s _ _ _ _
  · exact painted_roundOutline s _ _

theorem painted_fillRoundRectEvents (x y w h r : Int) : Painted s.par (fillRoundRectEvents s x y w h r) := by
  unfold fillRoundRectEvents
  dsimp only
  split_ifs
  · exact .nil _
  · exact .fill ..
  · exact painted_aaRound s _ _ _ _
  · exact painted_roundFill s _ _

/-! ### Glyphs -/

theorem painted_glyphSeg (d : GlyphDraw) (u n v : Int) : Painted s.par (glyphSeg s d u n v) := by
  unfold glyphSeg
  split <;> exact .fill ..

theorem painted_glyphRun (d : GlyphDraw) (on : Bool) (fuel : Nat) :
    ∀ (ln : Int) (c : GlyphCursor), Painted s.par (glyphRun s d on fuel ln c).1 := by
  induction fuel with
  | zero => exact fun _ _ => .nil _
  | succ fuel ih =>
    intro ln c
    unfold glyphRun
    split
    · refine .append ?_ (ih _ _)
      split
      · exact painted_glyphSeg s d _ _ _
      · exact .nil _
    · exact .nil _

theorem painted_maskRunByte (d : GlyphDraw) (b : Byte) (c : GlyphCursor) :
    Painted s.par (maskRunByte s d b c).1 := painted_glyphRun s d _ _ _ c

theorem painted_coverageByte (d : GlyphDraw) (b : Byte) (c : GlyphCursor) :
    Painted s.par (coverageByte s d b c).1 := by
  unfold coverageByte
  split
  · exact painted_glyphRun s d _ _ _ c
  · exact .pixel ..

theorem painted_bodyLoop (d : GlyphDraw) {one : Byte → GlyphCursor → List Event × GlyphCursor}
    (hone : ∀ b c, Painted s.par (one b c).1) (more : Nat) :
    ∀ (k : Nat) (c : GlyphCursor), Painted s.par (bodyLoop s d one more k c) := by
  induction more with
  | zero => exact fun _ _ => .nil _
  | succ more ih =>
    intro k c
    unfold bodyLoop
    split
    · exact .nil _
    · exact .append (hone _ _) (ih _ _)

theorem painted_explicitTexel (d : GlyphDraw) (rb r c : Nat) : Painted s.par (explicitTexel s d rb r c) := by
  unfold explicitTexel
  split
  · exact .nil _
  · exact .pixel ..

theorem painted_explicitRows (d : GlyphDraw) : Painted s.par (explicitRows s d) :=
  .flatMap (fun r => .flatMap (painted_explicitTexel s d _ r) _) _

/-- Each of the three glyph decoders paints (47_glyph.md R281). -/
theorem painted_glyphBody (d : GlyphDraw) : Painted s.par (glyphBody s d) := by
  unfold glyphBody
  split_ifs
  · exact painted_bodyLoop s d (painted_maskRunByte s d) _ _ _
  · exact painted_explicitRows s d
  · exact painted_bodyLoop s d (painted_coverageByte s d) _ _ _

theorem painted_glyphEvents (f : Color) (g : Glyph) (gx gy : Int) : Painted s.par (glyphEvents s f g gx gy) := by
  unfold glyphEvents
  dsimp only
  split
  · exact .nil _
  · exact painted_glyphBody s _

/-! ### Images -/

/-- A delivered byte adds nothing or one row (48_image.md R319). -/
theorem painted_deliver (a : ImageArgs) (b : Byte) {d : ImageDec} (h : Painted s.par d.out) :
    Painted s.par (deliver s a b d).out := by
  unfold deliver
  dsimp only
  split
  · exact h
  · unfold rowPush
    dsimp only
    split
    · exact .append h (.row ..)
    · exact h

theorem painted_copyLoop (a : ImageArgs) (off cnt : Nat) :
    ∀ {d : ImageDec}, Painted s.par d.out → Painted s.par (copyLoop s a off cnt d).out := by
  induction cnt with
  | zero => exact fun h => h
  | succ cnt ih =>
    intro d h
    unfold copyLoop
    split
    · exact h
    · exact ih (painted_deliver s a _ h)

theorem painted_imageToken {a : ImageArgs} {d d' : ImageDec} (hd : imageToken s a d = some d')
    (h : Painted s.par d.out) : Painted s.par d'.out := by
  unfold imageToken at hd
  dsimp only at hd
  split_ifs at hd
  · cases hd
    exact painted_deliver s a _ h
  · cases hd
    exact painted_copyLoop s a _ _ h

theorem painted_imageLoop (a : ImageArgs) (fuel : Nat) :
    ∀ {d : ImageDec}, Painted s.par d.out → Painted s.par (imageLoop s a fuel d).1.out := by
  induction fuel with
  | zero => exact fun h => h
  | succ fuel ih =>
    intro d h
    unfold imageLoop
    split
    · exact h
    · split
      · exact h
      · next d' hd => exact ih (painted_imageToken s hd h)

theorem painted_imageDecode (x y : Int) (base size : Nat) : Painted s.par (imageDecode s x y base size).1 := by
  unfold imageDecode
  dsimp only
  split
  · exact .nil _
  · exact painted_imageLoop s _ _ (.nil _)

end

end Sys2Proof.Machine
end

section
/-! SUPPORT. Brackets and the event stream: how a drawing command ends, what the others emit, and what reset and the
host's writes keep; then the statements of 20_memory.md. -/

namespace Sys2Proof.Machine

/-! ### A text inside its bracket -/

/-- What the line breaks and the glyphs of a text keep, a whole text keeps, however it ends (47_glyph.md R293). -/
theorem textLoop_induct {P : TextRun → Prop} {t : TextArgs} (hnewline : ∀ r, P r → P (newline r))
    (hglyph : ∀ i g r, P r → P (placeGlyph t i g r)) (more : Nat) :
    ∀ (i : Nat) (r : TextRun), P r → P (textLoop t more i r).1 := by
  induction more with
  | zero => exact fun _ _ h => h
  | succ more ih =>
    intro i r h
    have hwrap : wrapStep t i r = .trunc ∨ (∃ r', wrapStep t i r = .skip r' ∧ P r') ∨
        ∃ r', wrapStep t i r = .place r' ∧ P r' := by
      rcases wrapStep_cases t i r with e | e | e | e
      · exact .inl e
      · exact .inr (.inl ⟨_, e, hnewline r h⟩)
      · exact .inr (.inr ⟨_, e, h⟩)
      · exact .inr (.inr ⟨_, e, hnewline r h⟩)
    unfold textLoop
    split
    · exact h
    · rcases hwrap with e | ⟨r', e, h'⟩ | ⟨r', e, h'⟩ <;> rw [e]
      · exact h
      · exact ih _ _ h'
      · dsimp only
        split
        · exact h'
        · exact ih _ _ h'
        · exact ih _ _ (hglyph _ _ _ h')

/-- `u` is reached from `s` inside a bracket: the events since are painted. -/
structure State.PaintedTo (s u : State) : Prop where
  par : u.par = s.par
  nest : u.nest = s.nest
  events : ∃ body, Painted s.par body ∧ u.events = s.events ++ body

theorem State.PaintedTo.refl (s : State) : s.PaintedTo s := ⟨rfl, rfl, [], .nil _, by simp⟩

theorem State.PaintedTo.extend {s u v : State} {evs : List Event} (h : s.PaintedTo u) (hpar : v.par = u.par)
    (hnest : v.nest = u.nest) (hevs : Painted u.par evs) (hv : v.events = u.events ++ evs) : s.PaintedTo v := by
  obtain ⟨body, hbody, hu⟩ := h.events
  rw [h.par] at hevs
  exact ⟨hpar.trans h.par, hnest.trans h.nest, body ++ evs, hbody.append hevs, by rw [hv, hu, List.append_assoc]⟩

/-- A sub-operation that starts inside a bracket adds its events alone (20_memory.md R70). -/
theorem State.PaintedTo.paint {s u : State} {evs : List Event} (h : s.PaintedTo u) (hs : s.nest ≠ 0)
    (hevs : Painted u.par evs) : s.PaintedTo (u.paint evs) := by
  have hu : u.nest ≠ 0 := h.nest ▸ hs
  exact h.extend rfl rfl hevs (by simp [State.paint_events, hu])

theorem State.PaintedTo.scrollBy {s u : State} (h : s.PaintedTo u) (d : Int) : s.PaintedTo (u.scrollBy d) := by
  rcases scrollBy_cases u d with ⟨_, e⟩ | ⟨_, e⟩ <;> rw [e]
  · exact h
  · exact h.extend rfl rfl (.scroll u d) rfl

theorem newline_paintedTo {s : State} {r : TextRun} (hs : s.nest ≠ 0) (h : s.PaintedTo r.st) :
    s.PaintedTo (newline r).st := by
  unfold newline
  dsimp only
  split
  · exact (h.scrollBy _).paint hs (.fill ..)
  · exact h

theorem textLoop_paintedTo {s : State} (hs : s.nest ≠ 0) (t : TextArgs) (more i : Nat) (r : TextRun)
    (h : s.PaintedTo r.st) : s.PaintedTo (textLoop t more i r).1.st :=
  textLoop_induct (P := fun r => s.PaintedTo r.st) (fun _ hr => newline_paintedTo hs hr)
    (fun _ _ _ hr => hr.paint hs (painted_glyphEvents ..)) more i r h

/-! ### How a drawing command ends -/

/-- `s` and `t` are the states before and after a drawing command: it failed a check and emitted nothing, or its
events stand in one bracket (20_memory.md R70). -/
def State.DrawsTo (s t : State) : Prop :=
  t.nest = 0 ∧ ((t.events = s.events ∧ t.lastErr ≠ 0) ∨
    ∃ body, Painted s.par body ∧ t.events = s.events ++ .acq :: (body ++ [.rel]))

theorem endCommand_lastErr_ne {s : State} {e : ErrCode} (h : e ≠ .ok) : (s.endCommand e).lastErr ≠ 0 := by
  cases e with
  | ok => exact absurd rfl h
  | _ => simp [State.endCommand, errNumber]

section
variable {s : State} (hs : s.nest = 0)
include hs

theorem failEarly_drawsTo {e : ErrCode} {t : State} (he : e ≠ .ok) (h : failEarly e s = .next t) : s.DrawsTo t := by
  cases h
  exact ⟨hs, .inl ⟨rfl, endCommand_lastErr_ne he⟩⟩

theorem drawing_drawsTo {evs : List Event} {t : State} (hevs : Painted s.par evs)
    (h : drawing (fun u => u.paint evs) s = .next t) : s.DrawsTo t := by
  rw [drawing_paint s evs hs] at h
  cases h
  exact ⟨hs, .inr ⟨evs, hevs, rfl⟩⟩

/-- What was painted inside the bracket, and the event that closes it (20_memory.md R70). -/
theorem drawsTo_of_paintedTo {u t : State} (hu : s.enter.PaintedTo u) (hnest : t.nest = 0)
    (ht : t.events = u.events ++ [.rel]) : s.DrawsTo t := by
  obtain ⟨body, hbody, he⟩ := hu.events
  exact ⟨hnest, .inr ⟨body, hbody, by simp [ht, he, hs]⟩⟩

theorem complete_leave_drawsTo {u t : State} (hu : s.enter.PaintedTo u) (h : complete u.leave = .next t) :
    s.DrawsTo t := by
  have hone : u.nest = 1 := by rw [hu.nest, State.enter_nest, hs]
  cases h
  exact drawsTo_of_paintedTo hs hu (by simp [hone]) (by simp [hone])

theorem failLate_drawsTo {u t : State} {e : ErrCode} (hu : s.enter.PaintedTo u) (h : failLate e u = .next t) :
    s.DrawsTo t := by
  cases h
  exact drawsTo_of_paintedTo hs hu rfl rfl

theorem execDrawText_drawsTo {erase haskern : Bool} {x y : Int} {text n kern : Nat} {t : State}
    (h : execDrawText erase haskern x y text n kern s = .next t) : s.DrawsTo t := by
  have hloop := textLoop_paintedTo (s := s.enter) (Nat.succ_ne_zero _) ⟨erase, haskern, text, n, kern⟩ n 0
    ⟨s.enter, x, y⟩ (.refl _)
  have hcaret := hloop.extend (v := storeCaret _) rfl rfl (.nil _) (List.append_nil _).symm
  unfold execDrawText at h
  dsimp only at h
  split at h
  · next e he =>
    refine failEarly_drawsTo hs ?_ h
    rintro rfl
    exact absurd (textError_code he) (by decide)
  · split at h
    · exact complete_leave_drawsTo hs hcaret h
    · exact failLate_drawsTo hs hcaret h

theorem execDrawImage_drawsTo {x y : Int} {base size : Nat} {t : State}
    (h : execDrawImage x y base size s = .next t) : s.DrawsTo t := by
  have hrows : s.enter.PaintedTo (s.enter.paint (imageDecode s x y base size).1) :=
    (State.PaintedTo.refl _).paint (Nat.succ_ne_zero _) (painted_imageDecode s x y base size)
  unfold execDrawImage at h
  dsimp only at h
  split at h
  · next e he =>
    refine failEarly_drawsTo hs ?_ h
    rintro rfl
    exact absurd (imageError_code he) (by decide)
  · split at h
    · exact complete_leave_drawsTo hs hrows h
    · exact failLate_drawsTo hs hrows h

/-- Every drawing command, entered with the nesting counter at 0, emits nothing or one bracket. -/
theorem exec_drawsTo {i : Instr} {t : State} (op : 0x10 ≤ i.opcode ∧ i.opcode ≤ 0x1B) (h : exec i s = .next t) :
    s.DrawsTo t := by
  cases i with
  | drawPixel x y => exact drawing_drawsTo hs (.pixel ..) h
  | fillRect x y w h' => exact drawing_drawsTo hs (painted_fillRectEvents s x y w h') h
  | hline x1 y x2 => exact drawing_drawsTo hs (painted_hline s s.fg x1 y x2) h
  | vline x y1 y2 => exact drawing_drawsTo hs (painted_vline s s.fg x y1 y2) h
  | drawRect x y w h' => exact drawing_drawsTo hs (painted_rectOutline s s.fg x y w h') h
  | drawLine x1 y1 x2 y2 => exact drawing_drawsTo hs (painted_drawLineEvents s x1 y1 x2 y2) h
  | drawCircle xc yc r => exact drawing_drawsTo hs (painted_circleEvents s xc yc r) h
  | drawOval x y w h' => exact drawing_drawsTo hs (painted_ovalEvents s x y w h') h
  | drawRoundRect x y w h' r => exact drawing_drawsTo hs (painted_roundRectEvents s x y w h' r) h
  | fillRoundRect x y w h' r => exact drawing_drawsTo hs (painted_fillRoundRectEvents s x y w h' r) h
  | drawText erase haskern x y text n kern => exact execDrawText_drawsTo hs h
  | drawImage x y base size => exact execDrawImage_drawsTo hs h
  | _ => exact absurd op (by simp [Instr.opcode])

end

/-- Settles O16: what is painted between ACQ and REL holds neither. -/
theorem drawingCommandIsBracketed : Obligations.DrawingCommandIsBracketed := by
  intro i s t hlo hhi hs h
  obtain ⟨hnest, hfailed | ⟨body, hbody, hevents⟩⟩ := exec_drawsTo hs ⟨hlo, hhi⟩ h
  · exact ⟨hnest, .inl hfailed⟩
  · have hacq : Event.acq ∉ body := fun hm => (hbody.keepsBus _ hm).1 rfl
    have hrel : Event.rel ∉ body := fun hm => (hbody.keepsBus _ hm).2 rfl
    exact ⟨hnest, .inr ⟨body, hevents, hacq, hrel⟩⟩

/-! ### The event stream over a step -/

theorem streamOk_iff (p : Params) (evs : List Event) :
    streamOk p evs = true ↔ streamScan p ⟨false, 0⟩ evs = some ⟨false, 0⟩ := by
  simp [streamOk]

/-- A well-formed stream may go on with any well-formed stream. -/
theorem streamOk_append {p : Params} {xs ys : List Event} (hx : streamOk p xs = true) (hy : streamOk p ys = true) :
    streamOk p (xs ++ ys) = true := by
  rw [streamOk_iff] at *
  rw [streamScan_append, hx]
  exact hy

/-- A bracket around filled windows is a well-formed stream (20_memory.md R70, R72). -/
theorem streamOk_bracket {p : Params} {body : List Event} (h : windowsFilled p body) :
    streamOk p (.acq :: (body ++ [.rel])) = true := by
  have hbody : streamScan p ⟨true, 0⟩ (body ++ [.rel]) = some ⟨false, 0⟩ := by
    rw [streamScan_append, h]
    rfl
  rw [streamOk_iff]
  exact hbody

theorem Params.wf_device {p : Params} (h : p.wf = true) : 0 < p.devW ∧ 0 < p.devH := by
  simp only [Params.wf, Bool.and_eq_true, decide_eq_true_eq] at h
  omega

/-- A command that does not draw emits ORIENT, SCROLLCMD or nothing, outside every bracket (40_config.md R127). -/
theorem CommandEnd.events_streamOk {s u : State} {i : Instr} {e : ErrCode} (h : CommandEnd s i e u)
    (hH : 0 < s.par.devH) (op : ¬ (0x10 ≤ i.opcode ∧ i.opcode ≤ 0x1B)) :
    ∃ evs, u.events = s.events ++ evs ∧ streamOk s.par evs = true := by
  cases h with
  | orientation o d code => exact ⟨[.orient d], rfl, rfl⟩
  | scroll dy =>
    rcases scrollBy_cases s dy with ⟨_, e⟩ | ⟨_, e⟩ <;> rw [e]
    · exact ⟨[], by simp, rfl⟩
    · exact ⟨_, rfl, by simp [streamOk, streamScan, streamStep, scrollOffset_lt s dy hH]⟩
  | drawn evs hdraw => exact absurd hdraw op
  | imageCut | text | textCut => exact absurd (by simp [Instr.opcode]) op
  | bounds physical x1 y1 x2 y2 c => cases c <;> exact ⟨[], by simp [State.storeBounds], rfl⟩
  | _ => exact ⟨[], (List.append_nil _).symm, rfl⟩

/-- What a command emits between two commands is a well-formed stream of its own. -/
theorem exec_events_streamOk {i : Instr} {s t : State} (hpar : s.par.wf = true) (hs : s.nest = 0)
    (h : exec i s = .next t) : ∃ evs, t.events = s.events ++ evs ∧ streamOk s.par evs = true := by
  obtain ⟨hW, hH⟩ := Params.wf_device hpar
  by_cases op : 0x10 ≤ i.opcode ∧ i.opcode ≤ 0x1B
  · obtain ⟨_, ⟨hsame, _⟩ | ⟨body, hbody, hevents⟩⟩ := exec_drawsTo hs op h
    · exact ⟨[], by simp [hsame], rfl⟩
    · exact ⟨_, hevents, streamOk_bracket (hbody.windowsFilled hW hH)⟩
  · obtain ⟨e, u, rfl, hend⟩ := exec_next h
    exact hend.events_streamOk hH op

/-- Settles O9: a step appends the events of one command, a well-formed stream of its own, or nothing. -/
theorem stepKeepsEventStreamWellFormed : Obligations.StepKeepsEventStreamWellFormed := by
  intro s t hs hok ht
  rcases step_cases s with ⟨_, he⟩ | ⟨p, rest, _, ⟨i, u, _, hu, he⟩ | he⟩ <;> rw [he] at ht <;> cases ht
  · exact hok
  · obtain ⟨evs, hevents, hevs⟩ := exec_events_streamOk (s := s.takePacket rest) hs.params hs.nest hu
    have hpar : u.par = s.par := (exec_sameOutside hu).par
    rw [State.settleBusy_par, State.settleBusy_events, hpar, hevents]
    exact streamOk_append hok hevs
  · exact hok

/-! ### What the host does between two steps -/

/-- A write adds no address but its own. -/
theorem mem_memInsert {a : Nat} {v : Byte} {m : Memory} {c : Host.Cell} (h : c ∈ memInsert a v m) :
    c.1 = a ∨ c ∈ m := by
  induction m with
  | nil =>
    unfold memInsert at h
    split_ifs at h
    · exact .inr h
    · exact .inl (congrArg Prod.fst (List.mem_singleton.1 h))
  | cons d m ih =>
    obtain ⟨b, w⟩ := d
    unfold memInsert at h
    split_ifs at h
    · exact .inr h
    · exact (List.mem_cons.1 h).imp_left (congrArg Prod.fst)
    · exact .inr (List.mem_cons_of_mem _ h)
    · exact (List.mem_cons.1 h).imp (congrArg Prod.fst) (List.mem_cons_of_mem _)
    · rcases List.mem_cons.1 h with here | later
      · exact .inr (List.mem_cons.2 (.inl here))
      · exact (ih later).imp_right (List.mem_cons_of_mem _)

/-- An asset write inside asset memory keeps the invariants (20_memory.md R61). -/
theorem memInsert_inv {s : State} {a : Nat} (v : Byte) (hs : s.Inv) (ha : a < s.par.amemSize) :
    State.Inv { s with amem := memInsert a v s.amem } :=
  { hs with
    memory := memInsert_wf a v s.amem hs.memory
    memory_range := fun c hc => (mem_memInsert hc).elim (fun h => h ▸ ha) (hs.memory_range c) }

/-- A read after an asset write: the byte written at its address, the old byte at every other. -/
theorem memRead_memInsert {s : State} {a : Nat} (v : Byte) (hmem : s.amem.wf = true) (ha : a < s.par.amemSize)
    (b : Nat) : memRead { s with amem := memInsert a v s.amem } b = if b = a then v else memRead s b := by
  unfold memRead
  dsimp only
  rw [memLookup_memInsert a b v s.amem none hmem]
  split_ifs with hb hba
  · rfl
  · rfl
  · omega
  · rfl

/-- A packet written keeps the invariants: BUSY is 1 and a packet waits (10_state.md R36). -/
theorem writeCommand_inv {s : State} (p : Packet) (hs : s.Inv) :
    State.Inv { s with queue := s.queue ++ [p], busy := true } :=
  { hs with busy := by simp }

/-- Settles O11: reset from its table, a packet by the port, a byte by the laws of asset memory. -/
theorem hostActionsKeepInvariant : Obligations.HostActionsKeepInvariant := by
  intro s hs
  refine ⟨hostReset_inv hs.params hs.memory hs.memory_range, fun p t ht => ?_, fun a v t ht => ?_⟩
  · obtain ⟨_, rfl⟩ := hostWriteCommand_spec s t p ht
    exact ⟨rfl, writeCommand_inv p hs⟩
  · obtain ⟨_, ha, rfl⟩ := hostWriteAsset_spec s t a v ht
    have hread := memRead_memInsert v hs.memory ha
    exact ⟨rfl, memInsert_inv v hs ha, by simp [hread], fun b hb => by simp [hread, hb]⟩

end Sys2Proof.Machine
end

section
/-! SUPPORT. The fields of a packet, each read back from the word it is written to and written back from the word
it is read from; then the decoder and the encoder, inverse to each other, and the statements about them and about
how a command ends. -/

namespace Sys2Proof.Machine

/-! ### One operand field, read and written (30_encoding.md R96 to R98) -/

theorem fitsU16_iff (v : Nat) : fitsU16 v = true ↔ v < 2 ^ 16 := by
  simp [fitsU16]

theorem readS16_writeS16 {v : Int} (h : fitsS16 v = true) : readS16 (writeS16 v) = v := by
  rw [fitsS16_iff] at h
  rw [readS16, writeS16, BitVec.toInt_ofInt]
  exact Int.bmod_eq_of_le (by omega) (by omega)

theorem readU16_writeU16 {v : Nat} (h : fitsU16 v = true) : readU16 (writeU16 v) = v :=
  Nat.mod_eq_of_lt ((fitsU16_iff v).1 h)

theorem readU32_write {v : Nat} (h : fitsU32 v = true) : readU32 (writeLo v) (writeHi v) = v := by
  rw [fitsU32_iff] at h
  simp only [readU32, writeLo, writeHi, BitVec.toNat_ofNat]
  omega

@[simp] theorem readChannel_writeChannel (v : Byte) : readChannel (writeChannel v) = v :=
  BitVec.setWidth_setWidth_of_le v (by decide)

@[simp] theorem writeS16_readS16 (w : Half) : writeS16 (readS16 w) = w := BitVec.ofInt_toInt

@[simp] theorem writeU16_readU16 (w : Half) : writeU16 (readU16 w) = w := by simp [writeU16, readU16]

@[simp] theorem writeLo_readU32 (lo hi : Half) : writeLo (readU32 lo hi) = lo := by
  have hlo := lo.isLt
  apply BitVec.eq_of_toNat_eq
  rw [writeLo, readU32, BitVec.toNat_ofNat]
  omega

@[simp] theorem writeHi_readU32 (lo hi : Half) : writeHi (readU32 lo hi) = hi := by
  have hlo := lo.isLt
  have hhi := hi.isLt
  apply BitVec.eq_of_toNat_eq
  rw [writeHi, readU32, BitVec.toNat_ofNat]
  omega

/-- Of a channel's word only the low byte is used, and the high byte is written 0 (R98). -/
@[simp] theorem writeChannel_readChannel (w : Half) : writeChannel (readChannel w) = w &&& 0xFF#16 := by
  have hlow : w.toNat &&& 0xFF = w.toNat % 2 ^ 8 := Nat.and_two_pow_sub_one_eq_mod w.toNat 8
  have hfits : w.toNat % 2 ^ 8 < 2 ^ 16 := by omega
  apply BitVec.eq_of_toNat_eq
  calc
    (writeChannel (readChannel w)).toNat = w.toNat % 2 ^ 8 % 2 ^ 16 := by simp [writeChannel, readChannel]
    _ = w.toNat % 2 ^ 8 := Nat.mod_eq_of_lt hfits
    _ = (w &&& 0xFF#16).toNat := hlow.symm

@[simp] theorem and_fullWord (w : Half) : w &&& 0xFFFF#16 = w := BitVec.and_allOnes

/-! ### The header word (30_encoding.md R91) -/

/-- A header word bit by bit: the opcode, the flag bits 0 and 1, and 0 above them. -/
theorem headerWord_getLsbD {op k : Nat} (f0 f1 : Bool) (hop : op < 256) (hk : k < 16) :
    (headerWord op f0 f1).getLsbD k = if k < 8 then op.testBit k else [f0, f1].getD (k - 8) false := by
  have hflags : ∀ j < 8, (f0.toNat + 2 * f1.toNat).testBit j = [f0, f1].getD j false := by
    revert f0 f1
    decide
  have hword : op + 256 * (f0.toNat + 2 * f1.toNat) = 2 ^ 8 * (f0.toNat + 2 * f1.toNat) + op := by omega
  rw [headerWord, BitVec.getLsbD_ofNat, hword, Nat.testBit_two_pow_mul_add _ (show op < 2 ^ 8 from hop),
    decide_eq_true hk, Bool.true_and]
  split
  · rfl
  · exact hflags _ (by omega)

theorem packetFlag_headerWord {op : Nat} (f0 f1 : Bool) (w1 w2 w3 w4 w5 w6 w7 : Half) (hop : op < 256) :
    packetFlag ⟨headerWord op f0 f1, w1, w2, w3, w4, w5, w6, w7⟩ 0 = f0 ∧
      packetFlag ⟨headerWord op f0 f1, w1, w2, w3, w4, w5, w6, w7⟩ 1 = f1 :=
  ⟨headerWord_getLsbD f0 f1 hop (k := 8) (by decide), headerWord_getLsbD f0 f1 hop (k := 9) (by decide)⟩

/-- What a header mask leaves of a packet's header: its opcode and the flag bits that are named. -/
theorem and_headerMask (p : Packet) (f0 f1 : Bool) :
    p.w0 &&& headerMask f0 f1 = headerWord (packetOp p) (f0 && packetFlag p 0) (f1 && packetFlag p 1) := by
  have hop : packetOp p < 2 ^ 8 := Nat.mod_lt _ (by decide)
  have hmask : headerMask f0 f1 = headerWord 0xFF f0 f1 := rfl
  apply BitVec.eq_of_getLsbD_eq
  intro k hk
  rw [BitVec.getLsbD_and, hmask, headerWord_getLsbD f0 f1 (by decide) hk, headerWord_getLsbD _ _ hop hk]
  split
  · next hlow =>
    have hones : Nat.testBit 0xFF k = decide (k < 8) := Nat.testBit_two_pow_sub_one 8 k
    have hbyte : (packetOp p).testBit k = (decide (k < 8) && p.w0.getLsbD k) := Nat.testBit_mod_two_pow _ 8 k
    simp [hones, hbyte, hlow]
  · next hhigh =>
    obtain ⟨j, rfl⟩ := Nat.exists_eq_add_of_le (Nat.le_of_not_lt hhigh)
    match j with
    | 0 | 1 => simp [packetFlag, Bool.and_comm]
    | j + 2 => simp

/-! ### The decoder looks at the opcode only (30_encoding.md R92, R101) -/

theorem packetOp_encode (i : Instr) : packetOp (encode i) = i.opcode := by
  cases i <;> exact Laws.packetOp_headerWord _ _ _ _ _ _ _ _ _ _ (Laws.opcode_lt _)

theorem opcode_of_decode {p : Packet} {i : Instr} (h : decode p = .ok i) : i.opcode = packetOp p := by
  unfold decode at h
  split at h <;> cases h <;> next hop => exact hop.symm

theorem opcode_not_reserved (i : Instr) : ¬ reservedOpcode i.opcode := by
  cases i <;> simp [Instr.opcode, reservedOpcode]

theorem reservedOpcode_of_decode {p : Packet} {r : DecodeError} (h : decode p = .error r) :
    reservedOpcode (packetOp p) := by
  unfold decode at h
  split at h <;> cases h
  simp only [imp_false] at *
  unfold reservedOpcode
  omega

/-- A packet carries a command exactly if its opcode is not reserved. -/
theorem decode_ok_iff (p : Packet) : (∃ i, decode p = .ok i) ↔ ¬ reservedOpcode (packetOp p) := by
  constructor
  · rintro ⟨i, hi⟩
    exact opcode_of_decode hi ▸ opcode_not_reserved i
  · intro hnot
    cases hp : decode p with
    | ok i => exact ⟨i, rfl⟩
    | error r => exact absurd (reservedOpcode_of_decode hp) hnot

/-- A packet with the opcode of a command's packet carries a command of that opcode. -/
theorem decode_of_packetOp_eq {p q : Packet} {i : Instr} (h : decode p = .ok i) (hq : packetOp q = packetOp p) :
    ∃ j, decode q = .ok j ∧ j.opcode = i.opcode := by
  have hnot : ¬ reservedOpcode (packetOp q) := hq ▸ (decode_ok_iff p).1 ⟨i, h⟩
  obtain ⟨j, hj⟩ := (decode_ok_iff q).2 hnot
  exact ⟨j, hj, by rw [opcode_of_decode hj, hq, opcode_of_decode h]⟩

/-- The bits that the format of an opcode names, read off the command of the packet that holds the opcode alone. -/
def formatBits (op : Nat) : Packet :=
  match decode (tablePacket 8 op) with
  | .ok i => namedBits i
  | .error _ => wordsMask 0 0

/-- The format is the opcode's, whatever the operands (R99, R100). -/
theorem namedBits_eq_formatBits (i : Instr) : namedBits i = formatBits i.opcode := by
  cases i <;> rfl

/-- Every command's format names the opcode, so masking by it keeps the opcode. -/
theorem packetOp_packetAnd_namedBits (p : Packet) (i : Instr) : packetOp (packetAnd p (namedBits i)) = packetOp p := by
  have hheader : ∃ f0 f1, (namedBits i).w0 = headerMask f0 f1 := by cases i <;> exact ⟨_, _, rfl⟩
  obtain ⟨f0, f1, hw⟩ := hheader
  rw [packetAnd, hw, and_headerMask]
  exact Laws.packetOp_headerWord _ _ _ _ _ _ _ _ _ _ (Nat.mod_lt _ (by decide))

/-! ### Decoder and encoder are inverse to each other -/

/-- Each command's operands are read from the words they were written to; the cases are grouped by the fields of the
command's format (R99). -/
theorem decode_encode {i : Instr} (h : i.wf = true) : decode (encode i) = .ok i := by
  rw [decode, packetOp_encode]
  cases i <;> simp only [Instr.wf, Bool.and_eq_true] at h
  case nop | clearErr | brBit | brNum | setFgPacked | setBgPacked => rfl
  case setFgRgb | setBgRgb => simp [Instr.opcode, encode]
  case setAntialias | setOrigin => simp [Instr.opcode, encode, packetFlag_headerWord]
  case setLineWidth | setOrientation | brBits | blendO => simp [Instr.opcode, encode, readU16_writeU16, h]
  case setFont | brOpen => simp [Instr.opcode, encode, readU32_write, h]
  case drawImage => simp [Instr.opcode, encode, readS16_writeS16, readU32_write, h]
  case measureText => simp [Instr.opcode, encode, packetFlag_headerWord, readU16_writeU16, readU32_write, h]
  case drawText =>
    simp [Instr.opcode, encode, packetFlag_headerWord, readS16_writeS16, readU16_writeU16, readU32_write, h]
  case setTextWrap | blendA | xformClip =>
    simp [Instr.opcode, encode, packetFlag_headerWord, readS16_writeS16, h]
  case scroll | drawPixel | fillRect | hline | vline | drawRect | drawLine | drawCircle | drawOval | drawRoundRect
      | fillRoundRect =>
    simp [Instr.opcode, encode, readS16_writeS16, h]

/-- Settles O1: every field is read back from the word it was written to. -/
theorem decodeEncodeAgree : Obligations.DecodeEncodeAgree := fun _ => decode_encode

/-- The encoder writes a packet back but for the bits that its format does not name, which it writes 0 (R92). -/
theorem encode_of_decode {p : Packet} {i : Instr} (h : decode p = .ok i) : encode i = packetAnd p (namedBits i) := by
  unfold decode at h
  split at h <;> cases h <;> next hop =>
    simp [encode, Instr.opcode, packetAnd, namedBits, wordsMask, and_headerMask, hop]

/-- Two packets with the same named bits carry the same command: the encoder writes one packet for both, and the
decoder reads the command back from it. -/
theorem decode_of_packetAnd_eq {p q : Packet} {i : Instr} (h : decode p = .ok i)
    (hq : packetAnd q (namedBits i) = packetAnd p (namedBits i)) : decode q = .ok i := by
  have hop : packetOp q = packetOp p := by
    rw [← packetOp_packetAnd_namedBits q i, hq, packetOp_packetAnd_namedBits]
  obtain ⟨j, hj, hopcode⟩ := decode_of_packetOp_eq h hop
  have hbits : namedBits j = namedBits i := by rw [namedBits_eq_formatBits, hopcode, ← namedBits_eq_formatBits]
  have hsame : encode j = encode i := by rw [encode_of_decode hj, hbits, hq, encode_of_decode h]
  calc
    decode q = .ok j := hj
    _ = decode (encode j) := (decode_encode (decode_wf hj)).symm
    _ = decode (encode i) := by rw [hsame]
    _ = .ok i := decode_encode (decode_wf h)

/-- Settles O2: the encoder keeps the named bits alone, and they decide the command. -/
theorem unnamedBitsIgnored : Obligations.UnnamedBitsIgnored := by
  intro p i h
  refine ⟨opcode_of_decode h, decode_wf h, encode_of_decode h, ?_, ?_⟩
  · exact fun q => decode_of_packetOp_eq h
  · exact fun q => decode_of_packetAnd_eq h

/-! ### Reserved opcodes -/

/-- Settles O3: the decoder answers an error, and the step ends the packet with code 1. -/
theorem reservedOpcodeIsIllegal : Obligations.ReservedOpcodeIsIllegal := by
  intro p
  refine ⟨decode_ok_iff p, fun s rest hres hq => ?_⟩
  cases hp : decode p with
  | ok i => exact absurd hres ((decode_ok_iff p).1 ⟨i, hp⟩)
  | error r =>
    rw [step_cons_error hq hp]
    rfl

/-! ### The end of a command (30_encoding.md R106, 60_exceptions.md R343) -/

theorem endCommand_lastErr_toNat (s : State) (e : ErrCode) : (s.endCommand e).lastErr.toNat = errNumber e := by
  have hle := errNumber_le e
  exact Nat.mod_eq_of_lt (by omega)

/-- The sticky word after a command, by the number of its code. -/
theorem stickyAfter_eq (e : ErrCode) (sticky : Half) :
    stickyAfter e sticky = if errNumber e = 0 then sticky else sticky ||| BitVec.twoPow 16 (errNumber e) := by
  cases e <;> rfl

/-- A command ends with code 0 or with a code of its list (60_exceptions.md R348). -/
theorem CommandEnd.code {s t : State} {i : Instr} {e : ErrCode} (h : CommandEnd s i e t) :
    errNumber e = 0 ∨ errNumber e ∈ errorCodes i := by
  cases h with
  | failed code => exact .inr code
  | imageCut | textCut => exact .inr (by simp [errNumber, errorCodes])
  | _ => exact .inl rfl

/-- Before its code is written, only CLEAR_ERR has touched the sticky bits. -/
theorem CommandEnd.errSticky {s t : State} {i : Instr} {e : ErrCode} (h : CommandEnd s i e t) (hi : i ≠ .clearErr) :
    t.errSticky = s.errSticky := by
  cases h with
  | errorsCleared => exact absurd rfl hi
  | scroll dy => rw [sameButScroll_scrollBy s dy]
  | text erase haskern x y text n kern | textCut erase haskern x y text n kern =>
    obtain ⟨sc, evs, cx, cy, hst, _⟩ := storeCaret_textLoop s ⟨erase, haskern, text, n, kern⟩ n x y
    simp [hst]
  | bounds physical x1 y1 x2 y2 c => cases c <;> rfl
  | _ => simp [State.storeRead]

/-- CLEAR_ERR ends with code 0 and clears the sticky bits. -/
theorem exec_clearErr (s : State) :
    exec .clearErr s = .next { s with errSticky := 0#16, lastErr := 0#8 } := rfl

/-- Settles O14: the code and the frame by `CommandEnd`, the sticky bits by the end of the command. -/
theorem everyCommandEnds : Obligations.EveryCommandEnds := by
  intro i s
  by_cases hi : i = .clearErr
  · subst hi
    exact ⟨_, exec_clearErr s, .inl rfl, rfl, rfl, rfl, rfl, rfl⟩
  · obtain ⟨e, u, ht, hend⟩ := exec_ends s i
    obtain ⟨hpar, hamem, hqueue, hbusy⟩ := exec_sameOutside ht
    refine ⟨_, ht, ?_, ?_, hpar, hamem, hqueue, hbusy⟩
    · rw [endCommand_lastErr_toNat]
      exact hend.code
    · rw [if_neg hi, endCommand_lastErr_toNat, ← hend.errSticky hi]
      exact stickyAfter_eq e u.errSticky

/-! ### Packets written out in the spec -/

/-- The first line of R104. -/
theorem assembleLine_drawLine : assembleLine "DRAW_LINE 2, 3, 10, -1" = some (.drawLine 2 3 10 (-1)) := by decide

/-- The second line of R104. -/
theorem assembleLine_drawText : assembleLine "DRAW_TEXT 0, 1, 10, 20, 0x00010040, 3, 0x200" =
    some (.drawText false true 10 20 0x00010040 3 0x200) := by decide

/-- Settles O4: closed packets, decoded, and the packets of the two lines' commands. -/
theorem samplePacketsDecode : Obligations.SamplePacketsDecode := by
  refine ⟨by decide, by decide, by decide, by decide, by decide, by decide, ?_, ?_⟩
  · rw [assembleLine_drawLine]
    decide
  · rw [assembleLine_drawText]
    decide

end Sys2Proof.Machine
end

section
/-! SUPPORT. The configuration commands (40_config.md): what their packets decode to, the whole next state of each,
how the scroll offset moves, and the statements about them. SET_FONT is not among them (47_glyph.md R275). -/

namespace Sys2Proof.Machine

/-! ### The packets of the configuration commands (30_encoding.md R99, R100) -/

section
variable {p : Packet}

theorem decode_nop (h : packetOp p = 0x00) : decode p = .ok .nop := by
  simp only [decode, h]

theorem decode_setFgRgb (h : packetOp p = 0x01) :
    decode p = .ok (.setFgRgb (p.w1.setWidth 8) (p.w2.setWidth 8) (p.w3.setWidth 8)) := by
  simp only [decode, h, readChannel]

theorem decode_setBgRgb (h : packetOp p = 0x02) :
    decode p = .ok (.setBgRgb (p.w1.setWidth 8) (p.w2.setWidth 8) (p.w3.setWidth 8)) := by
  simp only [decode, h, readChannel]

theorem decode_setFgPacked (h : packetOp p = 0x03) : decode p = .ok (.setFgPacked p.w1) := by
  simp only [decode, h]

theorem decode_setBgPacked (h : packetOp p = 0x04) : decode p = .ok (.setBgPacked p.w1) := by
  simp only [decode, h]

theorem decode_setLineWidth (h : packetOp p = 0x05) : decode p = .ok (.setLineWidth p.w1.toNat) := by
  simp only [decode, h, readU16]

theorem decode_setAntialias (h : packetOp p = 0x06) : decode p = .ok (.setAntialias (p.w0.getLsbD 8)) := by
  simp only [decode, h, packetFlag, Nat.add_zero]

theorem decode_setOrientation (h : packetOp p = 0x07) : decode p = .ok (.setOrientation p.w1.toNat) := by
  simp only [decode, h, readU16]

theorem decode_setOrigin (h : packetOp p = 0x08) : decode p = .ok (.setOrigin (p.w0.getLsbD 8)) := by
  simp only [decode, h, packetFlag, Nat.add_zero]

theorem decode_scroll (h : packetOp p = 0x09) : decode p = .ok (.scroll p.w1.toInt) := by
  simp only [decode, h, readS16]

theorem decode_setTextWrap (h : packetOp p = 0x0B) :
    decode p = .ok (.setTextWrap (p.w0.getLsbD 8) (p.w0.getLsbD 9) p.w1.toInt p.w2.toInt p.w3.toInt p.w4.toInt) := by
  simp only [decode, h, packetFlag, readS16, Nat.add_zero, Nat.reduceAdd]

theorem decode_clearErr (h : packetOp p = 0x0C) : decode p = .ok .clearErr := by
  simp only [decode, h]

end

/-! ### The whole next state of each command -/

section
variable (s : State)

theorem exec_nop : exec .nop s = .next { s with lastErr := 0#8 } := complete_eq s

theorem exec_setFgRgb (r g b : Byte) :
    exec (.setFgRgb r g b) s = .next { s with fg := colorOf r g b, lastErr := 0#8 } := complete_eq _

theorem exec_setBgRgb (r g b : Byte) :
    exec (.setBgRgb r g b) s = .next { s with bg := colorOf r g b, lastErr := 0#8 } := complete_eq _

theorem exec_setFgPacked (p : Half) :
    exec (.setFgPacked p) s = .next { s with fg := unpack p, lastErr := 0#8 } := complete_eq _

theorem exec_setBgPacked (p : Half) :
    exec (.setBgPacked p) s = .next { s with bg := unpack p, lastErr := 0#8 } := complete_eq _

/-- The check of R116 decides between the two ways SET_LINE_WIDTH ends. -/
theorem exec_setLineWidth (w : Nat) : exec (.setLineWidth w) s =
    if 1 ≤ w ∧ w ≤ 255 then .next { s with lineW := w, lastErr := 0#8 } else .next (s.afterFailure .badOperand) := rfl

theorem exec_setAntialias (on : Bool) :
    exec (.setAntialias on) s = .next { s with aa := on, lastErr := 0#8 } := complete_eq _

theorem exec_setOrientation_some {o : Nat} {d : Orientation} (h : orientOfCode o = some d) :
    exec (.setOrientation o) s =
      .next { s with orient := d, events := s.events ++ [.orient d], lastErr := 0#8 } := by
  simp only [exec, execSetOrientation, h, complete_eq, State.emit]

theorem exec_setOrientation_none {o : Nat} (h : orientOfCode o = none) :
    exec (.setOrientation o) s = .next (s.afterFailure .badOperand) := by
  simp only [exec, execSetOrientation, h]
  exact failEarly_eq .badOperand s (by decide)

theorem exec_setOrigin (relative : Bool) :
    exec (.setOrigin relative) s = .next { s with origin := relative, lastErr := 0#8 } := complete_eq _

theorem exec_scroll (dy : Int) : exec (.scroll dy) s = .next { s.scrollBy dy with lastErr := 0#8 } := complete_eq _

theorem exec_setTextWrap (wrap wrapscroll : Bool) (left right bottom gap : Int) :
    exec (.setTextWrap wrap wrapscroll left right bottom gap) s = .next { s with
      wrap := wrap, wrapScroll := wrapscroll, marginL := writeS16 left, marginR := writeS16 right,
      marginB := writeS16 bottom, lineGap := writeS16 gap, lastErr := 0#8 } := complete_eq _

end

/-! ### Asset memory and the events (40_config.md R127) -/

/-- Scrolling does not look at asset memory. -/
theorem scrollBy_withAmem (s : State) (d : Int) (m : Memory) :
    { s with amem := m }.scrollBy d = { s.scrollBy d with amem := m } := by
  rcases scrollBy_cases s d with ⟨hsame, e⟩ | ⟨hmoved, e⟩ <;> rw [e]
  · simp [State.scrollBy, hsame]
  · simp [State.scrollBy, State.emit, hmoved]

/-- The next state of a configuration command but for SET_FONT does not depend on the bytes of asset memory. -/
theorem exec_config_withAmem {i : Instr} {s t : State} (hop : i.opcode ≤ 0x0C) (hfont : i.opcode ≠ 0x0A) (m : Memory)
    (h : exec i s = .next t) : exec i { s with amem := m } = .next { t with amem := m } := by
  cases i with
  | nop | setFgRgb | setBgRgb | setFgPacked | setBgPacked | setAntialias | setOrigin | setTextWrap | clearErr =>
    cases h
    rfl
  | setLineWidth w =>
    rw [exec_setLineWidth] at h ⊢
    split at h <;> cases h
    · next hw => exact if_pos hw
    · next hw => exact if_neg hw
  | setOrientation o =>
    cases ho : orientOfCode o with
    | some d =>
      rw [exec_setOrientation_some s ho] at h
      cases h
      exact exec_setOrientation_some _ ho
    | none =>
      rw [exec_setOrientation_none s ho] at h
      cases h
      exact exec_setOrientation_none _ ho
  | scroll dy =>
    rw [exec_scroll] at h ⊢
    cases h
    rw [scrollBy_withAmem]
  | setFont => exact absurd rfl hfont
  | _ => exact absurd hop (by simp [Instr.opcode])

/-- A configuration command emits at most ORIENT and SCROLLCMD. -/
theorem CommandEnd.config_events {s u : State} {i : Instr} {e : ErrCode} (h : CommandEnd s i e u)
    (hop : i.opcode ≤ 0x0C) :
    ∃ evs, u.events = s.events ++ evs ∧ ∀ e ∈ evs, (∃ o, e = .orient o) ∨ ∃ o, e = .scrollCmd o := by
  cases h with
  | orientation o d code => exact ⟨[.orient d], rfl, by simp⟩
  | scroll dy =>
    rcases scrollBy_cases s dy with ⟨_, e⟩ | ⟨_, e⟩ <;> rw [e]
    · exact ⟨[], by simp⟩
    · exact ⟨_, rfl, by simp⟩
  | drawn evs hdraw => exact absurd hop (by omega)
  | imageCut | text | textCut | bounds => exact absurd hop (by simp [Instr.opcode])
  | _ => exact ⟨[], by simp [State.storeRead]⟩

/-- Settles O17: the events by `CommandEnd`, the fields left alone by the statement of which command writes which
field. -/
theorem configurationCommandsNeverDraw : Obligations.ConfigurationCommandsNeverDraw := by
  intro i s m hop hfont
  obtain ⟨e, u, ht, hend⟩ := exec_ends s i
  obtain ⟨evs, hevents, honly⟩ := hend.config_events hop
  obtain ⟨-, -, hbounds, hreader, hpos, hres, -, hcaret, -⟩ := onlyNamedCommandsWriteAField i s _ ht
  obtain ⟨hx1, hy1, hx2, hy2, hvis⟩ := hbounds (by omega)
  obtain ⟨hopen, hbase, hsize⟩ := hreader (by omega)
  obtain ⟨hcx, hcy⟩ := hcaret (by omega)
  have hnotReader : i.opcode ∉ [0x21, 0x22, 0x23, 0x24] := by
    simp only [List.mem_cons, List.not_mem_nil, or_false]
    omega
  have hnotResult : i.opcode ∉ [0x20, 0x22, 0x23, 0x24, 0x25, 0x26, 0x27] := by
    simp only [List.mem_cons, List.not_mem_nil, or_false]
    omega
  exact ⟨_, evs, ht, exec_config_withAmem hop hfont m ht, hevents, honly, hres hnotResult, hx1, hy1, hx2, hy2, hvis,
    hcx, hcy, hopen, hbase, hsize, hpos hnotReader⟩

/-! ### Colours (40_config.md R112 to R115) -/

/-- A 5-bit channel repeats its high bits (42_compositor.md R162). -/
theorem channel5_toNat (n : Nat) (h : n < 32) : (BitVec.ofNat 8 (n * 8 + (n >>> 2))).toNat = n * 8 + n / 4 := by
  rw [BitVec.toNat_ofNat, Nat.shiftRight_eq_div_pow]
  exact Nat.mod_eq_of_lt (by omega)

/-- A 6-bit channel repeats its high bits (R162). -/
theorem channel6_toNat (n : Nat) (h : n < 64) : (BitVec.ofNat 8 (n * 4 + (n >>> 4))).toNat = n * 4 + n / 16 := by
  rw [BitVec.toNat_ofNat, Nat.shiftRight_eq_div_pow]
  exact Nat.mod_eq_of_lt (by omega)

section
variable (p : Half)

theorem unpack_r_toNat : (unpack p).r.toNat = p.toNat / 2048 * 8 + p.toNat / 2048 / 4 := by
  have hp := p.isLt
  have hfield : (p.extractLsb' 11 5).toNat = p.toNat / 2048 := by
    rw [BitVec.extractLsb'_toNat, Nat.shiftRight_eq_div_pow]
    omega
  rw [← hfield]
  exact channel5_toNat _ (BitVec.isLt _)

theorem unpack_g_toNat : (unpack p).g.toNat = p.toNat / 32 % 64 * 4 + p.toNat / 32 % 64 / 16 := by
  have hfield : (p.extractLsb' 5 6).toNat = p.toNat / 32 % 64 := by
    rw [BitVec.extractLsb'_toNat, Nat.shiftRight_eq_div_pow]
  rw [← hfield]
  exact channel6_toNat _ (BitVec.isLt _)

theorem unpack_b_toNat : (unpack p).b.toNat = p.toNat % 32 * 8 + p.toNat % 32 / 4 := by
  have hfield : (p.extractLsb' 0 5).toNat = p.toNat % 32 := by
    rw [BitVec.extractLsb'_toNat, Nat.shiftRight_zero]
  rw [← hfield]
  exact channel5_toNat _ (BitVec.isLt _)

end

/-- Settles O20: the colour is `unpack` of the operand, whose packed form is in sync with its channels. -/
theorem setColourFromPacked : Obligations.SetColourFromPacked :=
  ⟨fun _ => decode_setFgPacked, fun _ => decode_setBgPacked, fun p s =>
    ⟨unpack p, exec_setFgPacked s p, exec_setBgPacked s p, rfl, (unpack_inSync p).symm, unpack_r_toNat p,
      unpack_g_toNat p, unpack_b_toNat p⟩⟩

/-- The packed form of three channels with the dropped bits as quotients (42_compositor.md R161). -/
theorem colorOf_eq (r g b : Byte) :
    colorOf r g b = ⟨r, g, b, BitVec.ofNat 16 (r.toNat / 8 * 2048 + g.toNat / 4 * 32 + b.toNat / 8)⟩ := by
  simp only [colorOf, pack, Nat.shiftRight_eq_div_pow, Nat.reducePow]

/-- Settles O19: the colour is `colorOf` of the channels. -/
theorem setColourFromChannels : Obligations.SetColourFromChannels := by
  refine ⟨fun _ => decode_setFgRgb, fun _ => decode_setBgRgb, fun r g b s => ?_⟩
  dsimp only
  rw [← colorOf_eq]
  exact ⟨exec_setFgRgb s r g b, exec_setBgRgb s r g b⟩

/-! ### Scrolling (40_config.md R122) -/

/-- The offset stays where it is exactly if the move is a multiple of the height. -/
theorem scrollOffset_eq_iff {s : State} (hs : s.scroll < s.par.devH) (d : Int) :
    ((s.scroll + d) % s.par.devH).toNat = s.scroll ↔ (s.par.devH : Int) ∣ d := by
  have hnonneg := Int.emod_nonneg (s.scroll + d) (by omega : (s.par.devH : Int) ≠ 0)
  have hsmall : (s.scroll : Int) % s.par.devH = s.scroll := Int.emod_eq_of_lt (by omega) (by omega)
  calc ((s.scroll + d) % s.par.devH).toNat = s.scroll
      ↔ (s.scroll + d) % s.par.devH = (s.scroll : Int) % s.par.devH := by rw [hsmall]; omega
    _ ↔ (s.par.devH : Int) ∣ s.scroll + d - s.scroll := by
        rw [Int.emod_eq_emod_iff_emod_sub_eq_zero, Int.dvd_iff_emod_eq_zero]
    _ ↔ (s.par.devH : Int) ∣ d := by rw [add_sub_cancel_left]

/-- The new offset is the moved one modulo the height. -/
theorem devH_dvd_sub_scrollOffset (s : State) (d : Int) (hH : 0 < s.par.devH) :
    (s.par.devH : Int) ∣ s.scroll + d - ((s.scroll + d) % s.par.devH).toNat := by
  rw [Int.toNat_of_nonneg (Int.emod_nonneg _ (by omega))]
  exact Int.dvd_self_sub_emod

/-- Settles O24: the offset moves exactly if `dy` is no multiple of the height, and then by `scrollBy`. -/
theorem scrollMovesModuloHeight : Obligations.ScrollMovesModuloHeight := by
  refine ⟨fun _ => decode_scroll, fun dy s _ hs => ?_⟩
  have hH : 0 < s.par.devH := Nat.zero_lt_of_lt hs
  rw [exec_scroll, ← scrollOffset_eq_iff hs]
  rcases scrollBy_cases s dy with ⟨hsame, e⟩ | ⟨hmoved, e⟩ <;> rw [e]
  · exact ⟨fun _ => rfl, fun hne => absurd hsame hne⟩
  · exact ⟨fun heq => absurd heq hmoved, fun _ =>
      ⟨_, scrollOffset_lt s dy hH, devH_dvd_sub_scrollOffset s dy hH, hmoved, rfl⟩⟩

/-! ### The other setters -/

/-- Settles O22: each flag is the low flag bit of its packet, and each next state that of the command. -/
theorem nopClearErrAndFlagSetters : Obligations.NopClearErrAndFlagSetters :=
  ⟨fun _ => decode_nop, fun _ => decode_clearErr, fun _ => decode_setAntialias, fun _ => decode_setOrigin,
    fun b s => ⟨exec_nop s, exec_clearErr s, exec_setAntialias s b, exec_setOrigin s b⟩⟩

/-- The numbers up to 3 are the codes of the four orientations (10_state.md R22). -/
theorem exists_orientCode {v : Nat} (h : v ≤ 3) : ∃ d, orientCode d = v ∧ orientOfCode v = some d := by
  match v, h with
  | 0, _ => exact ⟨.portrait, rfl, rfl⟩
  | 1, _ => exact ⟨.landscape, rfl, rfl⟩
  | 2, _ => exact ⟨.portraitFlip, rfl, rfl⟩
  | 3, _ => exact ⟨.landscapeFlip, rfl, rfl⟩

/-- No number above 3 is the code of an orientation (40_config.md R119). -/
theorem orientOfCode_none {v : Nat} (h : 3 < v) : orientOfCode v = none := by
  match v, h with
  | _ + 4, _ => rfl

/-- Settles O23: each clause is one branch of the command's check. -/
theorem settersWithARange : Obligations.SettersWithARange := by
  refine ⟨fun _ => decode_setLineWidth, fun _ => decode_setOrientation, fun v s => ⟨?_, ?_, ?_, ?_⟩⟩
  · intro hpos hle
    exact (exec_setLineWidth s v).trans (if_pos ⟨hpos, hle⟩)
  · intro hout
    exact (exec_setLineWidth s v).trans (if_neg (by omega))
  · intro hle
    obtain ⟨d, hd, hcode⟩ := exists_orientCode hle
    exact ⟨d, hd, exec_setOrientation_some s hcode⟩
  · intro hout
    exact exec_setOrientation_none s (orientOfCode_none hout)

/-- Settles O25: a signed operand in the range of its word is read back from the word it is stored in. -/
theorem setTextWrap : Obligations.SetTextWrap :=
  ⟨fun _ => decode_setTextWrap, fun wrap wrapscroll left right bottom gap s hleft hright hbottom hgap =>
    ⟨_, exec_setTextWrap s wrap wrapscroll left right bottom gap, rfl, readS16_writeS16 hleft,
      readS16_writeS16 hright, readS16_writeS16 hbottom, readS16_writeS16 hgap⟩⟩

end Sys2Proof.Machine
end

section
/-! SUPPORT. The bit reader commands (41_bitreader.md): what their packets decode to, how each ends, what the reader
reads at a bit position of the unit's slice, the number code, and the statements about them. -/

namespace Sys2Proof.Machine

/-! ### The packets of the bit reader commands (30_encoding.md R99, R100) -/

section
variable {p : Packet}

theorem decode_brOpen (h : packetOp p = 0x21) : decode p =
    .ok (.brOpen (p.w1.toNat + p.w2.toNat * 2 ^ 16) (p.w3.toNat + p.w4.toNat * 2 ^ 16)) := by
  simp only [decode, h, readU32]

theorem decode_brBit (h : packetOp p = 0x22) : decode p = .ok .brBit := by
  simp only [decode, h]

theorem decode_brBits (h : packetOp p = 0x23) : decode p = .ok (.brBits p.w1.toNat) := by
  simp only [decode, h, readU16]

theorem decode_brNum (h : packetOp p = 0x24) : decode p = .ok .brNum := by
  simp only [decode, h]

end

/-! ### How the commands end -/

section
variable {s : State}

/-- The two checks of R148 in order, else the reader at bit 0. -/
theorem exec_brOpen (base size : Nat) (s : State) : exec (.brOpen base size) s =
    if s.par.amemSize < base + size then .next (s.afterFailure .assetRange)
    else if 0x1FFFFFFF < size then .next (s.afterFailure .badOperand)
    else .next { s with
      brBase := BitVec.ofNat 32 base, brSize := BitVec.ofNat 32 size, brPos := 0#32, brOpen := true,
      lastErr := 0#8 } := by
  have hrange : (!sliceInRange s base size) = true ↔ s.par.amemSize < base + size := by
    rw [Bool.not_eq_true', ← Bool.not_eq_true, sliceInRange_iff, Nat.not_le]
  simp only [exec, execBrOpen, hrange, failEarly_eq _ s (by decide : ErrCode.assetRange ≠ .ok),
    failEarly_eq _ s (by decide : ErrCode.badOperand ≠ .ok), complete_eq]

theorem exec_brBit_closed (h : s.brOpen = false) : exec .brBit s = .next (s.afterFailure .badOperand) := by
  simp only [exec, execBrBit, h]
  exact failEarly_eq .badOperand s (by decide)

theorem exec_brBit_open (h : s.brOpen = true) : exec .brBit s = complete (s.storeRead (readBit s s.unitReader)) := by
  simp [exec, execBrBit, h]

theorem exec_brBits_refused {n : Nat} (h : s.brOpen = false ∨ 8 < n) :
    exec (.brBits n) s = .next (s.afterFailure .badOperand) := by
  rw [← failEarly_eq .badOperand s (by decide)]
  rcases h with h | h <;> simp [exec, execBrBits, h]

theorem exec_brBits_open {n : Nat} (h : s.brOpen = true) (hn : n ≤ 8) :
    exec (.brBits n) s = complete (s.storeRead (readBits s n s.unitReader)) := by
  simp [exec, execBrBits, h, Nat.not_lt.2 hn]

theorem exec_brNum_closed (h : s.brOpen = false) : exec .brNum s = .next (s.afterFailure .badOperand) := by
  simp only [exec, execBrNum, h]
  exact failEarly_eq .badOperand s (by decide)

theorem exec_brNum_open (h : s.brOpen = true) : exec .brNum s = complete (s.storeRead (readNumber s s.unitReader)) := by
  simp [exec, execBrNum, h]

/-- A read that completes stores a result that fits its register as it is, and the position saturated (R152). -/
theorem complete_storeRead (s : State) {r : Nat × BitReader} (hr : r.1 < 2 ^ 32) : ∃ v p : Word,
    complete (s.storeRead r) = .next { s with res := v, brPos := p, lastErr := 0 } ∧
      v.toNat = r.1 ∧ p.toNat = min r.2.pos (2 ^ 32 - 1) := by
  have hpos : min r.2.pos (2 ^ 32 - 1) < 2 ^ 32 := by omega
  exact ⟨_, _, complete_eq _, Nat.mod_eq_of_lt hr, Nat.mod_eq_of_lt hpos⟩

end

/-! ### Reading at a bit position of the unit's slice -/

/-- The unit-access reader moved to bit `q`. -/
def State.readerAt (s : State) (q : Nat) : BitReader := ⟨s.brBase.toNat, s.brSize.toNat, q⟩

theorem State.unitReader_eq (s : State) : s.unitReader = s.readerAt s.brPos.toNat := rfl

section
variable (s : State)

/-- A bit inside the slice is the bit of the stream, and 0 past the end (R141). -/
theorem readBit_readerAt (q : Nat) : readBit s (s.readerAt q) =
    (if q < 8 * s.brSize.toNat then (s.streamBit q).toNat else 0, s.readerAt (q + 1)) := by
  by_cases hq : q < 8 * s.brSize.toNat
  · simp [readBit, State.readerAt, State.streamBit, hq, Nat.not_le.2 hq]
  · simp [readBit, State.readerAt, hq, Nat.not_lt.1 hq]

theorem readBits_readerAt_snd (n q : Nat) : (readBits s n (s.readerAt q)).2 = s.readerAt (q + n) :=
  (readBits_spec s n _).2

/-- A field that passes the end is 0 whole (R143). -/
theorem readBits_readerAt_past {n q : Nat} (h : 8 * s.brSize.toNat < q + n) : (readBits s n (s.readerAt q)).1 = 0 := by
  simp [readBits, State.readerAt, h]

/-- The loop shifts `n` bits of the stream in below `v`, the first the most significant. -/
theorem readBitsLoop_testBit (n : Nat) : ∀ (v q : Nat), q + n ≤ 8 * s.brSize.toNat → ∀ j,
    (readBitsLoop s n v (s.readerAt q)).1.testBit j =
      if j < n then s.streamBit (q + (n - 1 - j)) else v.testBit (j - n) := by
  induction n with
  | zero => intro v q _ j; simp [readBitsLoop]
  | succ n ih =>
    intro v q hq j
    have hloop : readBitsLoop s (n + 1) v (s.readerAt q) =
        readBitsLoop s n (Nat.bit (s.streamBit q) v) (s.readerAt (q + 1)) := by
      simp only [readBitsLoop, readBit_readerAt, if_pos (by omega : q < 8 * s.brSize.toNat), Nat.bit_val]
    rw [hloop, ih _ _ (by omega)]
    rcases Nat.lt_trichotomy j n with hj | rfl | hj
    · rw [if_pos hj, if_pos (by omega), show q + 1 + (n - 1 - j) = q + (n + 1 - 1 - j) by omega]
    · simp
    · rw [if_neg (by omega), if_neg (by omega), show j - n = j - (n + 1) + 1 by omega, Nat.testBit_bit_succ]

/-- The bits of a field inside the slice are those of the stream, the first the most significant (R143). -/
theorem readBits_readerAt_testBit {n q k : Nat} (hin : q + n ≤ 8 * s.brSize.toNat) (hk : k < n) :
    (readBits s n (s.readerAt q)).1.testBit (n - 1 - k) = s.streamBit (q + k) := by
  have hinside : ¬ 8 * (s.readerAt q).size < (s.readerAt q).pos + n := Nat.not_lt.2 hin
  rw [readBits, if_neg hinside, readBitsLoop_testBit s n 0 q hin, if_pos (by omega),
    show n - 1 - (n - 1 - k) = k by omega]

end

/-! ### The number code (41_bitreader.md R144, R145) -/

/-- The one legal value of the parameter (00_scope.md R10). -/
theorem Params.wf_rnMaxWidth {p : Params} (h : p.wf = true) : p.rnMaxWidth = 6 := by
  simp only [Params.wf, Bool.and_eq_true, beq_iff_eq] at h
  obtain ⟨⟨_, hmax⟩, _⟩ := h
  exact hmax

section
variable (s : State)

/-- A 1 of the selector inside the slice makes the loop pass on to the next width. -/
theorem readNumberLoop_one {q : Nat} (hin : q < 8 * s.brSize.toNat) (hone : s.streamBit q = true)
    (left width base : Nat) : readNumberLoop s (left + 1) width base (s.readerAt q) =
      readNumberLoop s left (width + 1) (2 * base) (s.readerAt (q + 1)) := by
  simp [readNumberLoop, readBit_readerAt, hin, hone]

/-- `j` ones of the selector make the loop pass on by `j` widths. -/
theorem readNumberLoop_ones (j left : Nat) : ∀ (width q : Nat),
    (∀ k < j, q + k < 8 * s.brSize.toNat ∧ s.streamBit (q + k) = true) →
    readNumberLoop s (left + j) width (2 ^ width) (s.readerAt q) =
      readNumberLoop s left (width + j) (2 ^ (width + j)) (s.readerAt (q + j)) := by
  induction j with
  | zero => intro width q _; rfl
  | succ j ih =>
    intro width q hones
    obtain ⟨hin, hone⟩ : q < 8 * s.brSize.toNat ∧ s.streamBit q = true := hones 0 (by omega)
    have hrest : ∀ k < j, q + 1 + k < 8 * s.brSize.toNat ∧ s.streamBit (q + 1 + k) = true := fun k hk => by
      simpa only [Nat.add_assoc, Nat.add_comm 1] using hones (k + 1) (by omega)
    rw [← Nat.add_assoc, readNumberLoop_one s hin hone, ← Nat.pow_succ', ih _ _ hrest]
    simp only [Nat.add_assoc, Nat.add_comm 1]

/-- A 0, or a bit past the end, is the last bit of the selector; the field is behind it. -/
theorem readNumberLoop_zero {q : Nat} (hzero : q < 8 * s.brSize.toNat → s.streamBit q = false)
    (left width base : Nat) : readNumberLoop s (left + 1) width base (s.readerAt q) =
      (base + (readBits s width (s.readerAt (q + 1))).1, s.readerAt (q + 1 + width)) := by
  have hbit : (if q < 8 * s.brSize.toNat then (s.streamBit q).toNat else 0) = 0 := by
    split
    · next hq => rw [hzero hq]; rfl
    · rfl
  simp only [readNumberLoop, readBit_readerAt, hbit, if_true, readBits_readerAt_snd]

/-- From bit `q` on stands the selector of a field of `w` bits: `w - 1` ones inside the slice, then a 0 unless `w` is
the largest width; a bit past the end reads as 0. -/
structure State.SelectorAt (s : State) (w q : Nat) : Prop where
  pos : 1 ≤ w
  le : w ≤ 6
  ones : ∀ k < w - 1, q + k < 8 * s.brSize.toNat ∧ s.streamBit (q + k) = true
  zero : w < 6 → q + (w - 1) < 8 * s.brSize.toNat → s.streamBit (q + (w - 1)) = false

/-- The selector takes `min w 5` bits, and the number is `2 ^ w` and the field behind it. -/
theorem readNumber_of_selectorAt {w q : Nat} (hmax : s.par.rnMaxWidth = 6) (h : s.SelectorAt w q) :
    readNumber s (s.readerAt q) =
      (2 ^ w + (readBits s w (s.readerAt (q + min w 5))).1, s.readerAt (q + min w 5 + w)) := by
  obtain ⟨hpos, hle, hones, hzero⟩ := h
  have hloop := readNumberLoop_ones s (w - 1) (6 - w) 1 q hones
  rw [show 6 - w + (w - 1) = 5 by omega, show 1 + (w - 1) = w by omega] at hloop
  have hstart : readNumber s (s.readerAt q) = readNumberLoop s 5 1 (2 ^ 1) (s.readerAt q) := by
    simp only [readNumber, hmax, Nat.add_one_sub_one, Nat.pow_one]
  rw [hstart, hloop]
  rcases Nat.lt_or_ge w 6 with hw | hw
  · rw [show 6 - w = 5 - w + 1 by omega, readNumberLoop_zero s (hzero hw),
      show q + (w - 1) + 1 = q + min w 5 by omega]
  · obtain rfl : w = 6 := by omega
    simp [readNumberLoop, readBits_readerAt_snd]

/-- From the base `2 ^ width` on, a number is at most all ones of the largest width. -/
theorem readNumberLoop_lt (left : Nat) : ∀ (width : Nat) (br : BitReader),
    (readNumberLoop s left width (2 ^ width) br).1 < 2 ^ (width + left + 1) := by
  have hfield : ∀ (width : Nat) (br : BitReader), 2 ^ width + (readBits s width br).1 < 2 ^ (width + 1) := by
    intro width br
    have := (readBits_spec s width br).1
    omega
  induction left with
  | zero => exact hfield
  | succ left ih =>
    intro width br
    rw [readNumberLoop]
    split
    · exact (hfield width _).trans_le (Nat.pow_le_pow_right (by decide) (by omega))
    · rw [← Nat.pow_succ', show width + (left + 1) + 1 = width + 1 + left + 1 by omega]
      exact ih _ _

/-- The largest number of the code is 127 (R145). -/
theorem readNumber_le (hmax : s.par.rnMaxWidth = 6) (br : BitReader) : (readNumber s br).1 ≤ 127 := by
  have h := readNumberLoop_lt s 5 1 br
  rw [readNumber, hmax]
  exact Nat.le_of_lt_succ h

end

/-- The bits by which a code word of R145 begins, for the numbers with a field of `w` bits. -/
def numberSelector (w : Nat) : List Bool := List.replicate (w - 1) true ++ if w < 6 then [false] else []

/-- The `w` low bits of `n` in stream order, the first the most significant (R143). -/
def fieldBits (w n : Nat) : List Bool := (List.range w).map fun k => n.testBit (w - 1 - k)

@[simp] theorem fieldBits_length (w n : Nat) : (fieldBits w n).length = w := by simp [fieldBits]

theorem numberSelector_length {w : Nat} (hpos : 1 ≤ w) (hle : w ≤ 6) : (numberSelector w).length = min w 5 := by
  rw [numberSelector, List.length_append, List.length_replicate]
  split
  · rw [List.length_singleton]; omega
  · rw [List.length_nil]; omega

/-- Each row of the table of R145 is a selector and a field of `w` bits. -/
theorem numberCode_eq {w x : Nat} (hpos : 1 ≤ w) (hle : w ≤ 6) (hlow : 2 ^ w ≤ x) (hhigh : x < 2 ^ (w + 1)) :
    numberCode x = numberSelector w ++ fieldBits w (x - 2 ^ w) := by
  match w, hpos, hle with
  | 1, _, _ => rw [numberCode, if_pos (by omega)]; rfl
  | 2, _, _ => rw [numberCode, if_neg (by omega), if_pos (by omega)]; rfl
  | 3, _, _ => rw [numberCode, if_neg (by omega), if_neg (by omega), if_pos (by omega)]; rfl
  | 4, _, _ => rw [numberCode, if_neg (by omega), if_neg (by omega), if_neg (by omega), if_pos (by omega)]; rfl
  | 5, _, _ =>
    rw [numberCode, if_neg (by omega), if_neg (by omega), if_neg (by omega), if_neg (by omega), if_pos (by omega)]; rfl
  | 6, _, _ =>
    rw [numberCode, if_neg (by omega), if_neg (by omega), if_neg (by omega), if_neg (by omega), if_neg (by omega)]; rfl

theorem numberCode_length {w x : Nat} (hpos : 1 ≤ w) (hle : w ≤ 6) (hlow : 2 ^ w ≤ x) (hhigh : x < 2 ^ (w + 1)) :
    (numberCode x).length = min w 5 + w := by
  rw [numberCode_eq hpos hle hlow hhigh, List.length_append, numberSelector_length hpos hle, fieldBits_length]

/-- Every number of the code has a field of 1 to 6 bits. -/
theorem exists_fieldWidth {x : Nat} (hlow : 2 ≤ x) (hhigh : x ≤ 127) :
    ∃ w, 1 ≤ w ∧ w ≤ 6 ∧ 2 ^ w ≤ x ∧ x < 2 ^ (w + 1) := by
  have hne : x ≠ 0 := by omega
  refine ⟨Nat.log2 x, (Nat.le_log2 hne).2 hlow, ?_, Nat.log2_self_le hne, Nat.lt_log2_self⟩
  exact Nat.le_of_lt_succ ((Nat.log2_lt hne).2 (by omega))

/-! ### A list of bits in the slice, and the number it is read as -/

/-- The bits `l` stand from bit `q` of the unit's slice on, whole. -/
structure State.HoldsAt (s : State) (q : Nat) (l : List Bool) : Prop where
  inside : q + l.length ≤ 8 * s.brSize.toNat
  bits : ∀ k < l.length, s.streamBit (q + k) = l.getD k false

section
variable {s : State} {q : Nat}

theorem State.HoldsAt.append {l m : List Bool} (h : s.HoldsAt q (l ++ m)) :
    s.HoldsAt q l ∧ s.HoldsAt (q + l.length) m := by
  obtain ⟨hin, hbits⟩ := h
  rw [List.length_append] at hin hbits
  refine ⟨⟨by omega, fun k hk => ?_⟩, ⟨by omega, fun k hk => ?_⟩⟩
  · rw [hbits k (by omega), List.getD_append _ _ _ _ hk]
  · rw [Nat.add_assoc, hbits _ (by omega), List.getD_append_right _ _ _ _ (by omega), Nat.add_sub_cancel_left]

/-- A selector of the table is one that `readNumber` passes. -/
theorem State.HoldsAt.selectorAt {w : Nat} (hpos : 1 ≤ w) (hle : w ≤ 6) (h : s.HoldsAt q (numberSelector w)) :
    s.SelectorAt w q := by
  obtain ⟨hones, hzero⟩ := h.append
  rw [List.length_replicate] at hzero
  refine ⟨hpos, hle, fun k hk => ?_, fun hw _ => ?_⟩
  · have hin := hones.inside
    have hbit := hones.bits k (by rwa [List.length_replicate])
    rw [List.length_replicate] at hin
    rw [List.getD_replicate _ hk] at hbit
    exact ⟨by omega, hbit⟩
  · rw [if_pos hw] at hzero
    exact hzero.bits 0 (by decide)

/-- A field is read back as the number whose bits it holds. -/
theorem State.HoldsAt.readBits_fieldBits {w n : Nat} (hn : n < 2 ^ w) (h : s.HoldsAt q (fieldBits w n)) :
    (readBits s w (s.readerAt q)).1 = n := by
  obtain ⟨hin, hbits⟩ := h
  rw [fieldBits_length] at hin hbits
  refine Nat.eq_of_testBit_eq fun j => ?_
  rcases Nat.lt_or_ge j w with hj | hj
  · have hk : w - 1 - j < w := by omega
    have hread := readBits_readerAt_testBit s hin hk
    have hbit : (fieldBits w n).getD (w - 1 - j) false = n.testBit j := by
      simp [fieldBits, hk, show w - 1 - (w - 1 - j) = j by omega]
    rwa [hbits _ hk, hbit, show w - 1 - (w - 1 - j) = j by omega] at hread
  · have hpow : 2 ^ w ≤ 2 ^ j := Nat.pow_le_pow_right (by decide) hj
    have hlt := (readBits_spec s w (s.readerAt q)).1
    rw [Nat.testBit_lt_two_pow (by omega), Nat.testBit_lt_two_pow (by omega)]

/-- A code word of R145 is read back as its number, and the position stands behind it. -/
theorem State.HoldsAt.readNumber_numberCode {x : Nat} (hmax : s.par.rnMaxWidth = 6) (hlow : 2 ≤ x) (hhigh : x ≤ 127)
    (h : s.HoldsAt q (numberCode x)) :
    readNumber s (s.readerAt q) = (x, s.readerAt (q + (numberCode x).length)) := by
  obtain ⟨w, hpos, hle, hbase, htop⟩ := exists_fieldWidth hlow hhigh
  rw [numberCode_length hpos hle hbase htop]
  rw [numberCode_eq hpos hle hbase htop] at h
  obtain ⟨hselector, hfield⟩ := h.append
  rw [numberSelector_length hpos hle] at hfield
  have hn : x - 2 ^ w < 2 ^ w := by omega
  rw [readNumber_of_selectorAt s hmax (hselector.selectorAt hpos hle), hfield.readBits_fieldBits hn,
    Nat.add_sub_cancel' hbase, Nat.add_assoc]

/-- Where the field passes the end, the base alone is read, and the position advances all the same (R143, R144). -/
theorem readNumber_of_straddle {w : Nat} (hmax : s.par.rnMaxWidth = 6) (h : s.SelectorAt w q)
    (hend : 8 * s.brSize.toNat < q + min w 5 + w) :
    readNumber s (s.readerAt q) = (2 ^ w, s.readerAt (q + min w 5 + w)) := by
  rw [readNumber_of_selectorAt s hmax h, readBits_readerAt_past s hend, Nat.add_zero]

end

/-! ### The statements -/

/-- Settles O27: the checks of the command in their order, and two `u32` operands kept as they are. -/
theorem brOpen : Obligations.BrOpen := by
  refine ⟨fun _ => decode_brOpen, fun base size s hbase hsize => ?_⟩
  rw [exec_brOpen]
  refine ⟨fun hout => if_pos hout, fun hin hbig => ?_, fun hin hfits => ?_⟩
  · rw [if_neg (Nat.not_lt.2 hin), if_pos hbig]
  · refine ⟨BitVec.ofNat 32 base, BitVec.ofNat 32 size, Nat.mod_eq_of_lt hbase, Nat.mod_eq_of_lt hsize, ?_⟩
    rw [if_neg (Nat.not_lt.2 hin), if_neg (Nat.not_lt.2 hfits)]
    rfl

/-- Settles O28: the reader of the unit reads the bits of the stream, and what it read is stored. -/
theorem brBitAndBrBits : Obligations.BrBitAndBrBits := by
  refine ⟨fun _ => decode_brBit, fun _ => decode_brBits, fun n s =>
    ⟨exec_brBit_closed, exec_brBits_refused, fun hopen => ?_, fun hopen hn => ?_⟩⟩
  · rw [exec_brBit_open hopen, State.unitReader_eq]
    have hfits : (readBit s (s.readerAt s.brPos.toNat)).1 < 2 ^ 32 :=
      (readBit_spec s _).1.trans_lt (by decide)
    obtain ⟨v, p, hexec, hv, hp⟩ := complete_storeRead s hfits
    rw [readBit_readerAt] at hv hp
    exact ⟨v, p, hexec, hp, hv⟩
  · rw [exec_brBits_open hopen hn, State.unitReader_eq]
    obtain ⟨hlt, hafter⟩ := readBits_spec s n (s.readerAt s.brPos.toNat)
    have hfits := hlt.trans_le (Nat.pow_le_pow_right (by decide) (by omega : n ≤ 32))
    obtain ⟨v, p, hexec, hv, hp⟩ := complete_storeRead s hfits
    rw [hafter] at hp
    refine ⟨v, p, hexec, hp, hv ▸ hlt, fun hend => ?_, fun hin k hk => ?_⟩
    · exact BitVec.eq_of_toNat_eq (hv.trans (readBits_readerAt_past s hend))
    · rw [hv, readBits_readerAt_testBit s hin hk]

/-- Settles O29: a code word is a selector and a field; the selector fixes base and width, and the field is read
back, or is 0 past the end. -/
theorem brNumReadsTheCode : Obligations.BrNumReadsTheCode := by
  refine ⟨fun _ => decode_brNum, fun s hpar => ⟨exec_brNum_closed, fun hopen => ?_⟩⟩
  have hmax := Params.wf_rnMaxWidth hpar
  have hle := readNumber_le s hmax (s.readerAt s.brPos.toNat)
  rw [exec_brNum_open hopen, State.unitReader_eq]
  obtain ⟨v, p, hexec, hv, hp⟩ := complete_storeRead s (hle.trans_lt (by decide : 127 < 2 ^ 32))
  refine ⟨v, p, hexec, hv ▸ two_le_readNumber s _, hv ▸ hle, fun w hw hw6 hend hones hzero => ?_,
    fun x hlow hhigh hin hbits => ?_⟩
  · rw [readNumber_of_straddle hmax ⟨hw, hw6, hones, hzero⟩ hend] at hv hp
    exact ⟨hv, hp⟩
  · rw [State.HoldsAt.readNumber_numberCode hmax hlow hhigh ⟨hin, hbits⟩] at hv hp
    exact ⟨hv, hp⟩

end Sys2Proof.Machine
end

section
/-! SUPPORT. The compositor (42_compositor.md): what packing keeps of a channel, the ends of the two blends, what the
BLEND packets decode to, how each BLEND command ends, and the statements about them. -/

namespace Sys2Proof.Machine

/-! ### Packing (R161 to R163) -/

/-- The packed form as a number: three fields that do not overlap. -/
theorem pack_toNat (r g b : Byte) : (pack r g b).toNat = r.toNat / 8 * 2048 + g.toNat / 4 * 32 + b.toNat / 8 := by
  have hr := r.isLt
  have hg := g.isLt
  have hb := b.isLt
  simp only [pack, Nat.shiftRight_eq_div_pow, Nat.reducePow, BitVec.toNat_ofNat]
  exact Nat.mod_eq_of_lt (by omega)

section
variable (r g b : Byte)

/-- The red field that `unpack` reads is the one `pack` wrote. -/
theorem unpack_pack_r_toNat : (unpack (pack r g b)).r.toNat = r.toNat / 8 * 8 + r.toNat / 8 / 4 := by
  have hg := g.isLt
  have hb := b.isLt
  have hfield : (pack r g b).toNat / 2048 = r.toNat / 8 := by rw [pack_toNat]; omega
  rw [unpack_r_toNat, hfield]

/-- The green field that `unpack` reads is the one `pack` wrote. -/
theorem unpack_pack_g_toNat : (unpack (pack r g b)).g.toNat = g.toNat / 4 * 4 + g.toNat / 4 / 16 := by
  have hg := g.isLt
  have hb := b.isLt
  have hfield : (pack r g b).toNat / 32 % 64 = g.toNat / 4 := by rw [pack_toNat]; omega
  rw [unpack_g_toNat, hfield]

/-- The blue field that `unpack` reads is the one `pack` wrote. -/
theorem unpack_pack_b_toNat : (unpack (pack r g b)).b.toNat = b.toNat / 8 * 8 + b.toNat / 8 / 4 := by
  have hb := b.isLt
  have hfield : (pack r g b).toNat % 32 = b.toNat / 8 := by rw [pack_toNat]; omega
  rw [unpack_b_toNat, hfield]

end

/-- A 5-bit channel comes back with its low 3 bits replaced. -/
theorem channel5_error {n : Nat} (h : n < 256) : (((n / 8 * 8 + n / 8 / 4 : Nat) : Int) - n).natAbs ≤ 7 := by omega

/-- A 6-bit channel comes back with its low 2 bits replaced. -/
theorem channel6_error {n : Nat} (h : n < 256) : (((n / 4 * 4 + n / 4 / 16 : Nat) : Int) - n).natAbs ≤ 3 := by omega

/-- Settles O21: an unpacked colour is in sync, and each channel of a packed one keeps its field. -/
theorem packUnpackError : Obligations.PackUnpackError := by
  refine ⟨fun p => (unpack_inSync p).symm, fun r g b => ?_⟩
  dsimp only
  rw [unpack_pack_r_toNat, unpack_pack_g_toNat, unpack_pack_b_toNat]
  exact ⟨channel5_error r.isLt, channel6_error g.isLt, channel5_error b.isLt⟩

/-! ### The blends (R165, R166) -/

/-- A colour in sync is made of its channels. -/
theorem Color.InSync.colorOf_channels {c : Color} (h : c.InSync) : colorOf c.r c.g c.b = c :=
  congrArg (Color.mk c.r c.g c.b) h.symm

/-- Weight 0 is the background. -/
@[simp] theorem alphaChannel_zero (bg fg : Byte) : alphaChannel bg fg 0 = bg := by
  apply BitVec.eq_of_toNat_eq
  rw [alphaChannel_toNat bg fg 0 (by decide), Nat.mul_zero, Nat.add_zero]
  exact Nat.mul_div_cancel _ (by decide)

/-- Weight 255 is the foreground. -/
@[simp] theorem alphaChannel_max (bg fg : Byte) : alphaChannel bg fg 255 = fg := by
  apply BitVec.eq_of_toNat_eq
  rw [alphaChannel_toNat bg fg 255 (by decide), Nat.sub_self, Nat.mul_zero, Nat.zero_add]
  exact Nat.mul_div_cancel _ (by decide)

/-- The weighted mean of two bytes is a byte, so at the legal divisor the clamp of R166 never bites: the two blends
agree on a channel, with foreground and background exchanged. -/
theorem opacityChannel_eq_alphaChannel (fg bg : Byte) {o : Nat} (h : o ≤ 255) :
    opacityChannel 255 fg bg o = alphaChannel fg bg o := by
  apply BitVec.eq_of_toNat_eq
  rw [opacityChannel_toNat, ← alphaChannel_toNat fg bg o h]
  exact Nat.min_eq_right (Nat.le_of_lt_succ (alphaChannel fg bg o).isLt)

theorem blendOpacity_eq (fg bg : Color) {o : Nat} (h : o ≤ 255) : blendOpacity 255 fg bg o =
    colorOf (alphaChannel fg.r bg.r o) (alphaChannel fg.g bg.g o) (alphaChannel fg.b bg.b o) := by
  simp only [blendOpacity, opacityChannel_eq_alphaChannel _ _ h]

section
variable (bg fg : Color) {a : Int}

theorem blendAlpha_of_neg (h : a < 0) : blendAlpha bg fg a = bg := if_pos h

theorem blendAlpha_of_nonneg (h : 0 ≤ a) : blendAlpha bg fg a =
    colorOf (alphaChannel bg.r fg.r (min a 255).toNat) (alphaChannel bg.g fg.g (min a 255).toNat)
      (alphaChannel bg.b fg.b (min a 255).toNat) := if_neg (Int.not_lt.2 h)

theorem blendAlpha_zero {bg : Color} (h : bg.InSync) : blendAlpha bg fg 0 = bg := by
  have hweight : (min (0 : Int) 255).toNat = 0 := by decide
  rw [blendAlpha_of_nonneg bg fg (Int.le_refl 0), hweight]
  simp only [alphaChannel_zero, h.colorOf_channels]

/-- A weight above 255 counts as 255, the foreground. -/
theorem blendAlpha_of_max_le {fg : Color} (ha : 255 ≤ a) (h : fg.InSync) : blendAlpha bg fg a = fg := by
  have hweight : (min a 255).toNat = 255 := by rw [Int.min_eq_right ha]; rfl
  rw [blendAlpha_of_nonneg bg fg (by omega), hweight]
  simp only [alphaChannel_max, h.colorOf_channels]

end

/-! ### The BLEND commands (R168, R169) -/

theorem decode_blendA {p : Packet} (h : packetOp p = 0x25) :
    decode p = .ok (.blendA (p.w0.getLsbD 8) p.w1.toInt) := by
  simp only [decode, h, packetFlag, readS16, Nat.add_zero]

theorem decode_blendO {p : Packet} (h : packetOp p = 0x26) : decode p = .ok (.blendO p.w1.toNat) := by
  simp only [decode, h, readU16]

theorem exec_blendA (tofg : Bool) (alpha : Int) (s : State) : exec (.blendA tofg alpha) s = .next { s with
    res := colorWord (blendAlpha s.bg s.fg alpha), fg := if tofg then blendAlpha s.bg s.fg alpha else s.fg,
    lastErr := 0#8 } := complete_eq _

theorem exec_blendO_refused {o : Nat} (s : State) (h : 255 < o) :
    exec (.blendO o) s = .next (s.afterFailure .badOperand) := by
  simp only [exec, execBlendO, if_pos h]
  exact failEarly_eq .badOperand s (by decide)

theorem exec_blendO_ok {o : Nat} (s : State) (h : o ≤ 255) : exec (.blendO o) s =
    .next { s with res := colorWord (blendOpacity s.par.blendK s.fg s.bg o), lastErr := 0#8 } := by
  simp only [exec, execBlendO, if_neg (Nat.not_lt.2 h), complete_eq]

/-- The one legal value of the divisor (00_scope.md R10). -/
theorem Params.wf_blendK {p : Params} (h : p.wf = true) : p.blendK = 255 := by
  simp only [Params.wf, Bool.and_eq_true, beq_iff_eq] at h
  obtain ⟨⟨⟨_, hdivisor⟩, _⟩, _⟩ := h
  exact hdivisor

/-- Settles O30: the colour is `blendAlpha` of background and foreground (the definition has the plain name). -/
theorem blendAlpha_holds : Obligations.BlendAlpha := by
  refine ⟨fun _ => decode_blendA, fun tofg alpha s => ⟨blendAlpha s.bg s.fg alpha, exec_blendA tofg alpha s,
    blendAlpha_of_neg _ _, fun hnonneg => ?_, fun hzero => ?_, blendAlpha_of_max_le _⟩⟩
  · have hweight : (min alpha 255).toNat ≤ 255 := by omega
    rw [blendAlpha_of_nonneg _ _ hnonneg]
    exact ⟨alphaChannel_toNat _ _ _ hweight, alphaChannel_toNat _ _ _ hweight, alphaChannel_toNat _ _ _ hweight,
      colorOf_inSync _ _ _⟩
  · rw [hzero]
    exact blendAlpha_zero _

/-- Settles O31: at the legal divisor each channel is the unclamped mean, a byte whose ends are the two colours (the
definition has the plain name). -/
theorem blendOpacity_holds : Obligations.BlendOpacity := by
  refine ⟨fun _ => decode_blendO, fun o s hpar => ⟨exec_blendO_refused s, fun ho => ?_⟩⟩
  have hexec := exec_blendO_ok s ho
  rw [Params.wf_blendK hpar, blendOpacity_eq _ _ ho] at hexec
  refine ⟨_, _, _, hexec, alphaChannel_toNat _ _ _ ho, alphaChannel_toNat _ _ _ ho, alphaChannel_toNat _ _ _ ho,
    BitVec.isLt _, BitVec.isLt _, BitVec.isLt _, fun hzero => ?_, fun hmax => ?_⟩
  · subst hzero
    simp only [colorOf, alphaChannel_zero, and_self]
  · subst hmax
    simp only [colorOf, alphaChannel_max, and_self]

end Sys2Proof.Machine
end

section
/-! SUPPORT. The bounds pipeline (43_bounds.md): the transform and its inverse, the clip as an intersection, how
XFORM_CLIP and DRAW_PIXEL end, and the statements about them. -/

namespace Sys2Proof.Machine

/-! ### The transform (R181, R182) -/

section
variable (s : State)

theorem transformPointInv_transformPoint (x y : Int) :
    transformPointInv s (transformPoint s x y).1 (transformPoint s x y).2 = (x, y) := by
  cases ho : s.orient with
  | portrait | landscape | portraitFlip | landscapeFlip => simp [transformPoint, transformPointInv, ho]

theorem transformPoint_transformPointInv (px py : Int) :
    transformPoint s (transformPointInv s px py).1 (transformPointInv s px py).2 = (px, py) := by
  cases ho : s.orient with
  | portrait | landscape | portraitFlip | landscapeFlip => simp [transformPoint, transformPointInv, ho]

/-- A logical point is on the logical raster exactly where its physical point is on the device. -/
theorem transformPoint_onDevice_iff (x y : Int) : (0 ≤ x ∧ x < s.logW ∧ 0 ≤ y ∧ y < s.logH) ↔
    0 ≤ (transformPoint s x y).1 ∧ (transformPoint s x y).1 < s.par.devW ∧ 0 ≤ (transformPoint s x y).2 ∧
      (transformPoint s x y).2 < s.par.devH := by
  cases ho : s.orient with
  | portrait | landscape | portraitFlip | landscapeFlip =>
    simp only [transformPoint, State.logW, State.logH, isLandscape, ho, if_true, Bool.false_eq_true, if_false] <;>
      omega

/-- A point of the rectangle goes to a point of the transformed rectangle, and no other point does. -/
theorem transformToDevice_holds_iff {r : Rect} (hx : r.x1 ≤ r.x2) (hy : r.y1 ≤ r.y2) (x y : Int) :
    r.Holds x y ↔ (transformToDevice s r).Holds (transformPoint s x y).1 (transformPoint s x y).2 := by
  cases ho : s.orient with
  | portrait | landscape | portraitFlip | landscapeFlip =>
    simp only [Rect.Holds, transformToDevice, rectNorm, transformPoint, ho]
    omega

/-- A landscape variant exchanges the two sides of a rectangle, the other two keep them. -/
theorem transformToDevice_sides {r : Rect} (hx : r.x1 ≤ r.x2) (hy : r.y1 ≤ r.y2) :
    (transformToDevice s r).x2 - (transformToDevice s r).x1 =
        (if isLandscape s.orient then r.y2 - r.y1 else r.x2 - r.x1) ∧
      (transformToDevice s r).y2 - (transformToDevice s r).y1 =
        (if isLandscape s.orient then r.x2 - r.x1 else r.y2 - r.y1) := by
  cases ho : s.orient with
  | portrait | landscape | portraitFlip | landscapeFlip =>
    simp only [transformToDevice, rectNorm, transformPoint, isLandscape, ho, if_true, Bool.false_eq_true, if_false]
    omega

theorem transformToDevice_area {r : Rect} (hx : r.x1 ≤ r.x2) (hy : r.y1 ≤ r.y2) :
    ((transformToDevice s r).x2 - (transformToDevice s r).x1 + 1) *
        ((transformToDevice s r).y2 - (transformToDevice s r).y1 + 1) =
      (r.x2 - r.x1 + 1) * (r.y2 - r.y1 + 1) := by
  obtain ⟨hwidth, hheight⟩ := transformToDevice_sides s hx hy
  rw [hwidth, hheight]
  split
  · exact Int.mul_comm _ _
  · rfl

/-- The rectangle of one point goes to the rectangle of one point. -/
theorem transformToDevice_point (x y : Int) : transformToDevice s ⟨x, y, x, y⟩ =
    ⟨(transformPoint s x y).1, (transformPoint s x y).2, (transformPoint s x y).1, (transformPoint s x y).2⟩ := by
  simp only [transformToDevice, rectNorm, min_self, max_self]

end

/-- Settles O32: the inverse undoes the transform on both sides, and the two sides of a rectangle are kept or
exchanged. -/
theorem transformIsABijection : Obligations.TransformIsABijection := fun s _ =>
  ⟨transformPoint_onDevice_iff s, transformPointInv_transformPoint s, transformPoint_transformPointInv s,
    fun _ _ => rfl, fun _ hx hy => ⟨transformToDevice_holds_iff s hx hy, transformToDevice_area s hx hy⟩⟩

/-! ### The clip (R183, R184, R188) -/

section
variable {s : State} {r c : Rect}

/-- The clip answers the points of the rectangle that are visible. -/
theorem clipToVisible_holds_iff (h : clipToVisible s r = some c) (px py : Int) :
    c.Holds px py ↔ r.Holds px py ∧ s.Visible px py := by
  obtain ⟨rfl, _⟩ := clipToVisible_some s r c h
  simp only [Rect.Holds, State.Visible]
  omega

/-- Of an "invisible" rectangle no point is visible. -/
theorem clipToVisible_none (h : clipToVisible s r = none) (px py : Int) : ¬ (r.Holds px py ∧ s.Visible px py) := by
  simp only [Rect.Holds, State.Visible]
  unfold clipToVisible at h
  split at h
  · omega
  · dsimp only at h
    split at h
    · omega
    · cases h

/-- A rectangle whose two corners are visible is its own clip, normalised or not. -/
theorem clipToVisible_eq_self (h1 : s.Visible r.x1 r.y1) (h2 : s.Visible r.x2 r.y2) : clipToVisible s r = some r := by
  obtain ⟨x1, y1, x2, y2⟩ := r
  simp only [State.Visible] at h1 h2
  unfold clipToVisible
  dsimp only
  rw [if_neg (by omega), if_neg (by omega)]
  simp only [Option.some.injEq, Rect.mk.injEq]
  omega

/-- The two corners of what the clip answers are visible, whether or not the rectangle was normalised. -/
theorem clipToVisible_corners (hW : 0 < s.par.devW) (hH : 0 < s.par.devH) (h : clipToVisible s r = some c) :
    s.Visible c.x1 c.y1 ∧ s.Visible c.x2 c.y2 := by
  have hband := scrollBand_ordered s hH
  obtain ⟨rfl, hbounds⟩ := clipToVisible_some s r c h
  simp only [State.Visible]
  omega

theorem clipToVisible_idempotent (hW : 0 < s.par.devW) (hH : 0 < s.par.devH) (h : clipToVisible s r = some c) :
    clipToVisible s c = some c := by
  obtain ⟨hfirst, hlast⟩ := clipToVisible_corners hW hH h
  exact clipToVisible_eq_self hfirst hlast

/-- A normalised rectangle is "invisible" exactly where none of its points is visible: the first corner of any
clip is such a point. -/
theorem clipToVisible_eq_none_iff (hW : 0 < s.par.devW) (hH : 0 < s.par.devH) (hx : r.x1 ≤ r.x2) (hy : r.y1 ≤ r.y2) :
    clipToVisible s r = none ↔ ∀ px py : Int, ¬ (r.Holds px py ∧ s.Visible px py) := by
  refine ⟨clipToVisible_none, fun hempty => ?_⟩
  cases hc : clipToVisible s r with
  | none => rfl
  | some c =>
    obtain ⟨_, hcx, _, _, hcy, _⟩ := clipToVisible_bounds s r c hW hH hx hy hc
    have hcorner : c.Holds c.x1 c.y1 := ⟨Int.le_refl _, hcx, Int.le_refl _, hcy⟩
    exact absurd ((clipToVisible_holds_iff hc _ _).1 hcorner) (hempty _ _)

end

/-- Settles O33: the corners of a clip are visible, so it is its own clip, and its points are those of the
intersection. -/
theorem clipIsAnIntersection : Obligations.ClipIsAnIntersection := by
  intro s r hpar
  obtain ⟨hW, hH⟩ := Params.wf_device hpar
  exact ⟨fun _ => clipToVisible_idempotent hW hH,
    fun hx hy => ⟨clipToVisible_eq_none_iff hW hH hx hy, fun _ => clipToVisible_holds_iff⟩⟩

/-! ### XFORM_CLIP (R190) -/

theorem decode_xformClip {p : Packet} (h : packetOp p = 0x27) : decode p =
    .ok (.xformClip (p.w0.getLsbD 8) p.w1.toInt p.w2.toInt p.w3.toInt p.w4.toInt) := by
  simp only [decode, h, packetFlag, readS16, Nat.add_zero]

/-- The rectangle XFORM_CLIP clips: the normalised operands, or what the transform makes of them. -/
def xformRect (s : State) (physical : Bool) (x1 y1 x2 y2 : Int) : Rect :=
  if physical then rectNorm ⟨x1, y1, x2, y2⟩ else transformToDevice s (rectNorm ⟨x1, y1, x2, y2⟩)

section
variable (s : State) (physical : Bool) (x1 y1 x2 y2 : Int)

theorem exec_xformClip {o : Option Rect} (h : clipToVisible s (xformRect s physical x1 y1 x2 y2) = o) :
    exec (.xformClip physical x1 y1 x2 y2) s = .next { s.storeBounds o with lastErr := 0#8 } := by
  rw [← h]
  exact complete_eq _

theorem xformRect_ordered : (xformRect s physical x1 y1 x2 y2).x1 ≤ (xformRect s physical x1 y1 x2 y2).x2 ∧
    (xformRect s physical x1 y1 x2 y2).y1 ≤ (xformRect s physical x1 y1 x2 y2).y2 := by
  unfold xformRect
  split
  · exact rectNorm_ordered _
  · exact transformToDevice_ordered s _

end

/-- The legal device extents (00_scope.md R10): every physical coordinate fits a signed half. -/
theorem Params.wf_device_le {p : Params} (h : p.wf = true) : p.devW ≤ 32767 ∧ p.devH ≤ 32767 := by
  simp only [Params.wf, Bool.and_eq_true, decide_eq_true_eq] at h
  omega

/-- A physical coordinate is read back from the bounds register it is stored in. -/
theorem toInt_ofInt_coordinate {v : Int} (h0 : 0 ≤ v) (h1 : v < 32767) : (BitVec.ofInt 16 v).toInt = v :=
  readS16_writeS16 ((fitsS16_iff v).2 (by omega))

/-- Two physical rows are read back from the halves of the result. -/
theorem toNat_ofInt_rows {a b : Int} (ha : 0 ≤ a) (ha' : a < 32767) (hb : 0 ≤ b) (hb' : b < 32767) :
    ((BitVec.ofInt 32 (a + b * 65536)).toNat : Int) = a + b * 65536 := by
  rw [BitVec.toNat_ofInt]
  omega

/-- Settles O34: the clipped corners and the shifted rows are on the device, so no stored field wraps. -/
theorem xformClip : Obligations.XformClip := by
  refine ⟨fun _ => decode_xformClip, fun physical x1 y1 x2 y2 s hpar _ => ?_⟩
  intro r
  split
  next hc => exact exec_xformClip s physical x1 y1 x2 y2 hc
  next c hc =>
    obtain ⟨hW, hH⟩ := Params.wf_device hpar
    obtain ⟨hWle, hHle⟩ := Params.wf_device_le hpar
    obtain ⟨hx, hy⟩ := xformRect_ordered s physical x1 y1 x2 y2
    obtain ⟨hcx1, hcx, hcx2, hcy1, hcy, hcy2⟩ := clipToVisible_bounds s _ c hW hH hx hy hc
    obtain ⟨hfirst, hfirst'⟩ := scrollShift_range s c.y1 hcy1 (by omega)
    obtain ⟨hlast, hlast'⟩ := scrollShift_range s c.y2 (by omega) hcy2
    exact ⟨_, _, _, _, _, exec_xformClip s physical x1 y1 x2 y2 hc, toInt_ofInt_coordinate hcx1 (by omega),
      toInt_ofInt_coordinate hcy1 (by omega), toInt_ofInt_coordinate (by omega) (by omega),
      toInt_ofInt_coordinate (by omega) (by omega), toNat_ofInt_rows hfirst (by omega) hlast (by omega)⟩

/-! ### DRAW_PIXEL (R191, 44_raster_basic.md R205) -/

theorem decode_drawPixel {p : Packet} (h : packetOp p = 0x10) :
    decode p = .ok (.drawPixel p.w1.toInt p.w2.toInt) := by
  simp only [decode, h, readS16]

theorem exec_drawPixel {s : State} (x y : Int) (h : s.nest = 0) :
    exec (.drawPixel x y) s = .next (s.afterDrawing (pixel s s.fg x y)) := drawing_paint s _ h

section
variable {s : State} {x y : Int} (c : Color)

/-- A pixel whose physical point is visible is on the logical raster, and is written there, on the shifted row. -/
theorem pixel_of_visible (h : s.Visible (transformPoint s x y).1 (transformPoint s x y).2) : pixel s c x y =
      [.region (transformPoint s x y).1.toNat (scrollShift s (transformPoint s x y).2).toNat
        (transformPoint s x y).1.toNat (scrollShift s (transformPoint s x y).2).toNat, .pix c.p] := by
  have hclip : clipToVisible s (transformToDevice s ⟨x, y, x, y⟩) = some (transformToDevice s ⟨x, y, x, y⟩) := by
    rw [transformToDevice_point]
    exact clipToVisible_eq_self h h
  obtain ⟨hx, hxW, hy, hyH, _⟩ := h
  have hraster := (transformPoint_onDevice_iff s x y).2 ⟨hx, hxW, hy, hyH⟩
  rw [pixel, if_neg (by omega), hclip, transformToDevice_point]

/-- A pixel whose physical point is not visible emits nothing. -/
theorem pixel_of_not_visible (hW : 0 < s.par.devW) (hH : 0 < s.par.devH)
    (h : ¬ s.Visible (transformPoint s x y).1 (transformPoint s x y).2) : pixel s c x y = [] := by
  have hclip : clipToVisible s (transformToDevice s ⟨x, y, x, y⟩) = none := by
    rw [transformToDevice_point, clipToVisible_eq_none_iff hW hH (Int.le_refl _) (Int.le_refl _)]
    rintro px py ⟨⟨hx, hx', hy, hy'⟩, hvisible⟩
    obtain rfl := Int.le_antisymm hx' hx
    obtain rfl := Int.le_antisymm hy' hy
    exact h hvisible
  rw [pixel, hclip, ite_self]

end

/-- Settles O35: the one point of the clipped rectangle is the transformed point, visible or not. -/
theorem drawPixelLandsAtTransformedPoint : Obligations.DrawPixelLandsAtTransformedPoint := by
  refine ⟨fun _ => decode_drawPixel, fun x y s hpar hnest => ?_⟩
  obtain ⟨hW, hH⟩ := Params.wf_device hpar
  refine ⟨fun hvisible => ?_, fun hhidden => ?_⟩
  · rw [exec_drawPixel x y hnest, pixel_of_visible s.fg hvisible]
    rfl
  · rw [exec_drawPixel x y hnest, pixel_of_not_visible s.fg hW hH hhidden]

end Sys2Proof.Machine
end

section
/-! SUPPORT. The fill (44_raster_basic.md): what a run paints on the reference sink, the physical points of a fill, the
rows they are written to, how the four rectangle commands end, and the statements about them. -/

namespace Sys2Proof.Machine

/-! ### What events paint on the reference sink (20_memory.md R76) -/

/-- The sink `k'` shows the colour `c` at the points of `P`, and elsewhere what `k` shows. -/
def Sink.Recoloured (k k' : Sink) (c : Half) (P : Nat → Nat → Prop) : Prop :=
  ∀ X Y : Nat, (P X Y → k'.pixelAt X Y = c) ∧ (¬ P X Y → k'.pixelAt X Y = k.pixelAt X Y)

namespace Sink.Recoloured
variable {k k' k'' : Sink} {c : Half} {P Q R : Nat → Nat → Prop}

theorem refl (h : ∀ X Y, ¬ P X Y) : k.Recoloured k c P := fun X Y => ⟨fun hP => absurd hP (h X Y), fun _ => rfl⟩

theorem congr (h : k.Recoloured k' c P) (hPQ : ∀ X Y, P X Y ↔ Q X Y) : k.Recoloured k' c Q := fun X Y =>
  ⟨fun hQ => (h X Y).1 ((hPQ X Y).2 hQ), fun hQ => (h X Y).2 fun hP => hQ ((hPQ X Y).1 hP)⟩

/-- Two works in one colour, one after the other, recolour the points of either. -/
theorem trans (h : k.Recoloured k' c P) (h' : k'.Recoloured k'' c Q) (hR : ∀ X Y, R X Y ↔ P X Y ∨ Q X Y) :
    k.Recoloured k'' c R := by
  intro X Y
  obtain ⟨hin, hout⟩ := h X Y
  obtain ⟨hin', hout'⟩ := h' X Y
  rw [hR]
  by_cases hQ : Q X Y
  · exact ⟨fun _ => hin' hQ, fun hnone => absurd (.inr hQ) hnone⟩
  · rw [hout' hQ]
    exact ⟨fun hPQ => hin (hPQ.resolve_right hQ), fun hnone => hout fun hP => hnone (.inl hP)⟩

end Sink.Recoloured

theorem Sink.consume_append (k : Sink) (xs ys : List Event) : k.consume (xs ++ ys) = (k.consume xs).consume ys :=
  List.foldl_append

section
variable {k : Sink} (c : Half)

theorem Sink.putPixel_recoloured : k.Recoloured (k.putPixel c) c fun X Y => k.cx = X ∧ k.cy = Y := fun _ _ =>
  ⟨fun h => if_pos h, fun h => if_neg h⟩

/-- Before the last column of the window the cursor moves one column on. -/
theorem Sink.putPixel_in_row (hx : k.cx < k.wx2) (hy : k.cy ≤ k.wy2) :
    k.putPixel c = { k with writes := ⟨k.cx, k.cy, c⟩ :: k.writes, cx := k.cx + 1 } := by
  simp only [Sink.putPixel, if_neg (show ¬ k.wx2 < k.cx + 1 by omega), if_neg (Nat.not_lt.2 hy)]

/-- In the last column of the window, above its last row, the cursor moves to the start of the next row. -/
theorem Sink.putPixel_row_end (hx : k.cx = k.wx2) (hy : k.cy < k.wy2) :
    k.putPixel c = { k with writes := ⟨k.cx, k.cy, c⟩ :: k.writes, cx := k.wx1, cy := k.cy + 1 } := by
  simp only [Sink.putPixel, if_pos (show k.wx2 < k.cx + 1 by omega), if_neg (show ¬ k.wy2 < k.cy + 1 by omega)]

/-- The cursor stands in the window, or in its columns above it. -/
structure Sink.CursorInWindow (k : Sink) : Prop where
  left : k.wx1 ≤ k.cx
  right : k.cx ≤ k.wx2
  bottom : k.cy ≤ k.wy2

/-- A point of the window that the cursor has not yet passed in row-major order. -/
def Sink.Ahead (k : Sink) (X Y : Nat) : Prop :=
  k.wx1 ≤ X ∧ X ≤ k.wx2 ∧ Y ≤ k.wy2 ∧ (Y = k.cy ∧ k.cx ≤ X ∨ k.cy < Y)

/-- How many points are ahead of the cursor: the rest of its row, and the rows below. -/
def Sink.aheadCount (k : Sink) : Nat := (k.wx2 - k.cx + 1) + (k.wy2 - k.cy) * (k.wx2 - k.wx1 + 1)

/-- A run as long as what is left of the window paints what is left of the window. -/
theorem Sink.putRun_recoloured (n : Nat) :
    ∀ {k : Sink}, k.CursorInWindow → n = k.aheadCount → k.Recoloured (Sink.putRun c n k) c k.Ahead := by
  induction n with
  | zero => intro k _ hn; simp only [Sink.aheadCount] at hn; omega
  | succ n ih =>
    intro k hk hn
    obtain ⟨hleft, hright, hbottom⟩ := hk
    simp only [Sink.aheadCount] at hn
    by_cases hx : k.cx < k.wx2
    · have hnext := Sink.putPixel_in_row c hx hbottom
      refine (Sink.putPixel_recoloured c).trans (ih ?_ ?_) fun X Y => ?_ <;> rw [hnext]
      · exact ⟨Nat.le_succ_of_le hleft, hx, hbottom⟩
      · simp only [Sink.aheadCount]; omega
      · simp only [Sink.Ahead]; omega
    · have hx : k.cx = k.wx2 := by omega
      by_cases hy : k.cy < k.wy2
      · have hnext := Sink.putPixel_row_end c hx hy
        have hrows : k.wy2 - k.cy = k.wy2 - (k.cy + 1) + 1 := by omega
        rw [hrows, Nat.succ_mul] at hn
        refine (Sink.putPixel_recoloured c).trans (ih ?_ ?_) fun X Y => ?_ <;> rw [hnext]
        · exact ⟨Nat.le_refl _, hx ▸ hleft, hy⟩
        · simp only [Sink.aheadCount]; omega
        · simp only [Sink.Ahead]; omega
      · have hrows : k.wy2 - k.cy = 0 := by omega
        rw [hrows, Nat.zero_mul] at hn
        obtain rfl : n = 0 := by omega
        refine (Sink.putPixel_recoloured c).congr fun X Y => ?_
        simp only [Sink.Ahead]
        omega

end

/-- A window and as many pixels as it has: the run paints the window. -/
theorem Sink.region_run_recoloured (k : Sink) (c : Half) {x1 y1 x2 y2 : Nat} (hx : x1 ≤ x2) (hy : y1 ≤ y2) :
    k.Recoloured (k.consume [.region x1 y1 x2 y2, .run c ((x2 - x1 + 1) * (y2 - y1 + 1))]) c fun X Y =>
      (x1 ≤ X ∧ X ≤ x2) ∧ y1 ≤ Y ∧ Y ≤ y2 := by
  have hcursor : (k.step (.region x1 y1 x2 y2)).CursorInWindow := ⟨Nat.le_refl _, hx, hy⟩
  have hcount : (x2 - x1 + 1) * (y2 - y1 + 1) = (k.step (.region x1 y1 x2 y2)).aheadCount := by
    simp only [Sink.step, Sink.aheadCount]
    ring
  refine Sink.Recoloured.congr (k := k) (Sink.putRun_recoloured c _ hcursor hcount) fun X Y => ?_
  simp only [Sink.step, Sink.Ahead]
  omega

/-- A filled region paints its rectangle (44_raster_basic.md R203). -/
theorem consume_regionRun (k : Sink) (c : Color) {x1 y1 x2 y2 : Int} (hx1 : 0 ≤ x1) (hx : x1 ≤ x2) (hy1 : 0 ≤ y1)
    (hy : y1 ≤ y2) :
    k.Recoloured (k.consume (regionRun c x1 y1 x2 y2)) c.p fun X Y => (⟨x1, y1, x2, y2⟩ : Rect).Holds X Y := by
  have hwidth : (x2 - x1 + 1).toNat = x2.toNat - x1.toNat + 1 := by omega
  have hheight : (y2 - y1 + 1).toNat = y2.toNat - y1.toNat + 1 := by omega
  rw [regionRun, Int.toNat_mul (by omega) (by omega), hwidth, hheight]
  refine (k.region_run_recoloured c.p (Int.toNat_le_toNat hx) (Int.toNat_le_toNat hy)).congr fun X Y => ?_
  simp only [Rect.Holds]
  omega

/-! ### The shifted rows (43_bounds.md R186, R187) -/

section
variable {s : State}

/-- The scroll shift rotates the rows of the device by a fixed distance. -/
theorem scrollShift_rotates (hscroll : s.scroll < s.par.devH) : ∃ d : Int, 0 ≤ d ∧ d < s.par.devH ∧
    ∀ y : Int, 0 ≤ y → y < s.par.devH → scrollShift s y = if y + d < s.par.devH then y + d else y + d - s.par.devH := by
  by_cases hshift : s.origin = true ∧ 0 < s.scroll
  · refine ⟨s.scroll, by omega, by omega, fun y hy hyH => ?_⟩
    rw [scrollShift, if_pos hshift]
    split
    · exact Int.emod_eq_of_lt (by omega) (by omega)
    · rw [← Int.sub_emod_right]
      exact Int.emod_eq_of_lt (by omega) (by omega)
  · refine ⟨0, by omega, by omega, fun y hy hyH => ?_⟩
    rw [scrollShift, if_neg hshift, if_pos (by omega), Int.add_zero]

/-- The rows a band of device rows is shifted to: one band, or two where the shifted rows wrap. -/
theorem scrollShift_band (hscroll : s.scroll < s.par.devH) {y1 y2 : Int} (h1 : 0 ≤ y1) (h12 : y1 ≤ y2)
    (h2 : y2 < s.par.devH) {Y : Int} (hY : 0 ≤ Y) :
    (∃ y, (y1 ≤ y ∧ y ≤ y2) ∧ scrollShift s y = Y) ↔
      (scrollShift s y1 ≤ scrollShift s y2 ∧ scrollShift s y1 ≤ Y ∧ Y ≤ scrollShift s y2) ∨
        (scrollShift s y2 < scrollShift s y1 ∧ (scrollShift s y1 ≤ Y ∧ Y < s.par.devH ∨ Y ≤ scrollShift s y2)) := by
  obtain ⟨d, hd, hdH, hrot⟩ := scrollShift_rotates hscroll
  rw [hrot y1 h1 (by omega), hrot y2 (by omega) h2]
  constructor
  · rintro ⟨y, hy, rfl⟩
    rw [hrot y (by omega) (by omega)]
    omega
  · intro hrows
    have hback : ∃ y, (y1 ≤ y ∧ y ≤ y2) ∧ Y = if y + d < s.par.devH then y + d else y + d - s.par.devH := by
      by_cases hYd : Y < d
      · exact ⟨Y - d + s.par.devH, by omega, by omega⟩
      · exact ⟨Y - d, by omega, by omega⟩
    obtain ⟨y, hy, rfl⟩ := hback
    exact ⟨y, hy, hrot y (by omega) (by omega)⟩

end

/-! ### A fill and its pixels (R201, R203) -/

/-- The point of device memory that some point of the physical rectangle `b` is written to. -/
def WrittenFrom (s : State) (b : Rect) (X Y : Nat) : Prop := ∃ py : Int, b.Holds X py ∧ scrollShift s py = Y

section
variable {s : State} (c : Color) (x1 y1 x2 y2 : Int)

/-- A fill paints the points that its clipped rectangle is written to, in one filled region or in two. -/
theorem consume_fill {b : Rect} (k : Sink) (hW : 0 < s.par.devW) (hscroll : s.scroll < s.par.devH)
    (hb : toDevice s ⟨x1, y1, x2, y2⟩ = some b) :
    k.Recoloured (k.consume (fill s c x1 y1 x2 y2)) c.p (WrittenFrom s b) := by
  obtain ⟨hx1, hx, _, hy1, hy, hy2⟩ := toDevice_bounds s _ b hW (by omega) hb
  obtain ⟨ha, haH⟩ := scrollShift_range s b.y1 hy1 (by omega)
  obtain ⟨hb0, _⟩ := scrollShift_range s b.y2 (by omega) hy2
  have hrows : ∀ X Y : Nat, WrittenFrom s b X Y ↔ (b.x1 ≤ X ∧ X ≤ b.x2) ∧
      ((scrollShift s b.y1 ≤ scrollShift s b.y2 ∧ scrollShift s b.y1 ≤ Y ∧ Y ≤ scrollShift s b.y2) ∨
        (scrollShift s b.y2 < scrollShift s b.y1 ∧
          (scrollShift s b.y1 ≤ Y ∧ (Y : Int) < s.par.devH ∨ Y ≤ scrollShift s b.y2))) := by
    intro X Y
    rw [← scrollShift_band hscroll hy1 hy hy2 (by omega), ← exists_and_left]
    simp only [WrittenFrom, Rect.Holds, and_assoc]
  simp only [fill, hb]
  split
  next hle =>
    refine (consume_regionRun k c hx1 hx ha hle).congr fun X Y => ?_
    rw [hrows]
    simp only [Rect.Holds]
    omega
  next hwrap =>
    rw [Sink.consume_append]
    refine (consume_regionRun k c hx1 hx ha (by omega)).trans
      (consume_regionRun _ c hx1 hx (Int.le_refl 0) hb0) fun X Y => ?_
    rw [hrows]
    simp only [Rect.Holds]
    omega

/-- `pixel` writes the point `(X, Y)` exactly where the transformed point is visible and is written there. -/
theorem pixel_eq_iff (hW : 0 < s.par.devW) (hH : 0 < s.par.devH) (x y : Int) (X Y : Nat) :
    pixel s c x y = [.region X Y X Y, .pix c.p] ↔ s.Visible (transformPoint s x y).1 (transformPoint s x y).2 ∧
      (transformPoint s x y).1 = X ∧ scrollShift s (transformPoint s x y).2 = Y := by
  by_cases hv : s.Visible (transformPoint s x y).1 (transformPoint s x y).2
  · have ⟨hx, _, hy, hyH, _⟩ := hv
    obtain ⟨hrow, _⟩ := scrollShift_range s _ hy hyH
    rw [pixel_of_visible c hv]
    simp only [hv, true_and, List.cons.injEq, Event.region.injEq, and_true]
    omega
  · rw [pixel_of_not_visible c hW hH hv]
    simp only [hv, false_and, reduceCtorEq]

/-- Pixel by pixel over a logical rectangle: the points that the visible part of its transform is written to. -/
theorem exists_pixel_iff (hW : 0 < s.par.devW) (hH : 0 < s.par.devH) {r : Rect} (hx : r.x1 ≤ r.x2) (hy : r.y1 ≤ r.y2)
    (X Y : Nat) : (∃ x y : Int, r.Holds x y ∧ pixel s c x y = [.region X Y X Y, .pix c.p]) ↔
      ∃ py : Int, ((transformToDevice s r).Holds X py ∧ s.Visible X py) ∧ scrollShift s py = Y := by
  simp only [transformToDevice_holds_iff s hx hy, pixel_eq_iff c hW hH]
  constructor
  · rintro ⟨x, y, hholds, hvisible, hcolumn, hrow⟩
    rw [hcolumn] at hholds hvisible
    exact ⟨_, ⟨hholds, hvisible⟩, hrow⟩
  · rintro ⟨py, ⟨hholds, hvisible⟩, hrow⟩
    refine ⟨(transformPointInv s X py).1, (transformPointInv s X py).2, ?_⟩
    rw [transformPoint_transformPointInv]
    exact ⟨hholds, hvisible, rfl, hrow⟩

/-- A fill paints on the reference sink what `pixel` would, over the normalised rectangle. -/
theorem fill_recolours_pixels (k : Sink) (hW : 0 < s.par.devW) (hscroll : s.scroll < s.par.devH) :
    k.Recoloured (k.consume (fill s c x1 y1 x2 y2)) c.p fun X Y =>
      ∃ x y : Int, (rectNorm ⟨x1, y1, x2, y2⟩).Holds x y ∧ pixel s c x y = [.region X Y X Y, .pix c.p] := by
  obtain ⟨hx, hy⟩ := rectNorm_ordered ⟨x1, y1, x2, y2⟩
  have hH : 0 < s.par.devH := by omega
  cases hb : toDevice s ⟨x1, y1, x2, y2⟩ with
  | none =>
    have hfill : fill s c x1 y1 x2 y2 = [] := by simp only [fill, hb]
    rw [hfill]
    refine Sink.Recoloured.refl fun X Y hpainted => ?_
    obtain ⟨py, hshown, _⟩ := (exists_pixel_iff c hW hH hx hy X Y).1 hpainted
    exact clipToVisible_none hb X py hshown
  | some b =>
    refine (consume_fill c x1 y1 x2 y2 k hW hscroll hb).congr fun X Y => ?_
    rw [exists_pixel_iff c hW hH hx hy]
    simp only [WrittenFrom, clipToVisible_holds_iff hb]

end

/-- Settles O37: a fill paints what its clipped rectangle is written to, and so does `pixel`, through the inverse
transform. -/
theorem fillPaintsWhatPixelWould : Obligations.FillPaintsWhatPixelWould := by
  intro s c x1 y1 x2 y2 k X Y hpar hscroll
  obtain ⟨hW, _⟩ := Params.wf_device hpar
  have hrecoloured := fill_recolours_pixels c x1 y1 x2 y2 k hW hscroll X Y
  simp only [Rect.Holds, rectNorm, and_assoc] at hrecoloured
  exact hrecoloured

/-! ### The rectangle commands (R206 to R209) -/

section
variable {p : Packet}

theorem decode_fillRect (h : packetOp p = 0x11) :
    decode p = .ok (.fillRect p.w1.toInt p.w2.toInt p.w3.toInt p.w4.toInt) := by
  simp only [decode, h, readS16]

theorem decode_hline (h : packetOp p = 0x12) : decode p = .ok (.hline p.w1.toInt p.w2.toInt p.w3.toInt) := by
  simp only [decode, h, readS16]

theorem decode_vline (h : packetOp p = 0x13) : decode p = .ok (.vline p.w1.toInt p.w2.toInt p.w3.toInt) := by
  simp only [decode, h, readS16]

theorem decode_drawRect (h : packetOp p = 0x14) :
    decode p = .ok (.drawRect p.w1.toInt p.w2.toInt p.w3.toInt p.w4.toInt) := by
  simp only [decode, h, readS16]

end

section
variable {s : State} (x y w h x2 y2 : Int)

theorem exec_fillRect (hs : s.nest = 0) :
    exec (.fillRect x y w h) s = .next (s.afterDrawing (fillRectEvents s x y w h)) := drawing_paint s _ hs

theorem exec_drawRect (hs : s.nest = 0) :
    exec (.drawRect x y w h) s = .next (s.afterDrawing (rectOutline s s.fg x y w h)) := drawing_paint s _ hs

theorem exec_hline (hs : s.nest = 0) :
    exec (.hline x y x2) s = .next (s.afterDrawing (fill s s.fg x y x2 y)) := drawing_paint s _ hs

theorem exec_vline (hs : s.nest = 0) :
    exec (.vline x y y2) s = .next (s.afterDrawing (fill s s.fg x y x y2)) := drawing_paint s _ hs

variable {w h}

theorem fillRectEvents_of_pos (hw : 0 < w) (hh : 0 < h) :
    fillRectEvents s x y w h = fill s s.fg x y (x + w - 1) (y + h - 1) := if_pos ⟨hw, hh⟩

theorem fillRectEvents_of_empty (hsize : w ≤ 0 ∨ h ≤ 0) : fillRectEvents s x y w h = [] := if_neg (by omega)

/-- The outline of R204, in its order. -/
theorem rectOutline_of_pos (c : Color) (hw : 0 < w) (hh : 0 < h) : rectOutline s c x y w h =
    fill s c x y (x + w - 1) y ++ fill s c x (y + h - 1) (x + w - 1) (y + h - 1) ++ fill s c x y x (y + h - 1) ++
      fill s c (x + w - 1) y (x + w - 1) (y + h - 1) := if_neg (by omega)

theorem rectOutline_of_empty (c : Color) (hsize : w ≤ 0 ∨ h ≤ 0) : rectOutline s c x y w h = [] := if_pos hsize

end

/-- Settles O36: each command is one sub-operation, whose events the size decides. -/
theorem rectanglesAreFills : Obligations.RectanglesAreFills := by
  refine ⟨fun _ => decode_fillRect, fun _ => decode_hline, fun _ => decode_vline, fun _ => decode_drawRect,
    fun x y w h x2 y2 s hs => ⟨fun hw hh => ?_, fun hsize => ?_, exec_hline x y x2 hs, exec_vline x y y2 hs⟩⟩
  · rw [exec_fillRect x y w h hs, exec_drawRect x y w h hs, fillRectEvents_of_pos x y hw hh,
      rectOutline_of_pos x y s.fg hw hh]
    exact ⟨rfl, rfl⟩
  · rw [exec_fillRect x y w h hs, exec_drawRect x y w h hs, fillRectEvents_of_empty x y hsize,
      rectOutline_of_empty x y s.fg hsize]
    exact ⟨rfl, rfl⟩

end Sys2Proof.Machine
end

section
/-! SUPPORT. The lines (45_raster_line.md): which rasterizer DRAW_LINE takes, the Bresenham walk and the band its error
term stays in, the pairs of a Wu line, the passes of the thick walk, and the statements about them. -/

namespace Sys2Proof.Machine

/-! ### The dispatch (R220, R221) -/

theorem decode_drawLine {p : Packet} (h : packetOp p = 0x15) :
    decode p = .ok (.drawLine p.w1.toInt p.w2.toInt p.w3.toInt p.w4.toInt) := by
  simp only [decode, h, readS16]

section
variable {s : State} {x1 y1 x2 y2 : Int}

theorem exec_drawLine (x1 y1 x2 y2 : Int) (hs : s.nest = 0) :
    exec (.drawLine x1 y1 x2 y2) s = .next (s.afterDrawing (drawLineEvents s x1 y1 x2 y2)) := drawing_paint s _ hs

theorem drawLineEvents_horizontal (hw : s.lineW = 1) (hy : y1 = y2) :
    drawLineEvents s x1 y1 x2 y2 = fill s s.fg x1 y1 x2 y1 := if_pos ⟨hw, hy⟩

theorem drawLineEvents_vertical (hw : s.lineW = 1) (hy : y1 ≠ y2) (hx : x1 = x2) :
    drawLineEvents s x1 y1 x2 y2 = fill s s.fg x1 y1 x1 y2 := by
  rw [drawLineEvents, if_neg fun h => hy h.2, if_pos ⟨hw, hx⟩]
  rfl

theorem drawLineEvents_slanted (hw : s.lineW = 1) (hy : y1 ≠ y2) (hx : x1 ≠ x2) : drawLineEvents s x1 y1 x2 y2 =
    if s.aa = false then bresLine s x1 y1 x2 y2 else wuLine s x1 y1 x2 y2 := by
  simp only [drawLineEvents, hw, hy, hx, true_and, if_true, if_false]

theorem drawLineEvents_thick (hw : s.lineW ≠ 1) :
    drawLineEvents s x1 y1 x2 y2 = thickLine s x1 y1 x2 y2 s.lineW := by
  simp only [drawLineEvents, hw, false_and, if_false]

end

/-- Settles O38: the five branches of `drawLineEvents`, each under its own conditions. -/
theorem drawLineDispatch : Obligations.DrawLineDispatch := by
  refine ⟨fun _ => decode_drawLine, fun x1 y1 x2 y2 s hs => ?_⟩
  rw [exec_drawLine x1 y1 x2 y2 hs]
  refine ⟨fun hw hy => ?_, fun hw hy hx => ?_, fun hw hy hx haa => ?_, fun hw hy hx haa => ?_, fun hw => ?_⟩
  · rw [drawLineEvents_horizontal hw hy]
  · rw [drawLineEvents_vertical hw hy hx]
  · rw [drawLineEvents_slanted hw hy hx, if_pos haa]
    rfl
  · rw [drawLineEvents_slanted hw hy hx, if_neg (by simp [haa])]
    rfl
  · rw [drawLineEvents_thick hw]
    rfl

/-! ### Walks by unit steps (R223) -/

/-- One step of an aliased line: to a neighbour, never to an earlier row. -/
def UnitStep (p q : Int × Int) : Prop :=
  (q.1 - p.1).natAbs ≤ 1 ∧ 0 ≤ q.2 - p.2 ∧ q.2 - p.2 ≤ 1 ∧ p ≠ q

/-- The list is a walk of so many unit steps from the point to `goal`. -/
inductive UnitWalk (goal : Int × Int) : Nat → Int × Int → List (Int × Int) → Prop
  | stop : UnitWalk goal 0 goal [goal]
  | step {k : Nat} {p q : Int × Int} {ps : List (Int × Int)} :
      UnitStep p q → UnitWalk goal k q ps → UnitWalk goal (k + 1) p (p :: ps)

namespace UnitWalk
variable {goal p : Int × Int} {k : Nat} {ps : List (Int × Int)}

theorem length (h : UnitWalk goal k p ps) : ps.length = k + 1 := by
  induction h with
  | stop => rfl
  | step _ _ ih => rw [List.length_cons, ih]

theorem getElem?_zero (h : UnitWalk goal k p ps) : ps[0]? = some p := by cases h <;> rfl

theorem start_mem (h : UnitWalk goal k p ps) : p ∈ ps := List.mem_of_getElem? h.getElem?_zero

theorem goal_mem (h : UnitWalk goal k p ps) : goal ∈ ps := by
  induction h with
  | stop => exact List.mem_singleton_self _
  | step _ _ ih => exact List.mem_cons_of_mem _ ih

theorem unitStep (h : UnitWalk goal k p ps) : ∀ (i : Nat) (a b : Int × Int), ps[i]? = some a → ps[i + 1]? = some b →
    UnitStep a b := by
  induction h with
  | stop => intro i a b _ hb; simp at hb
  | step hpq hwalk ih =>
    intro i a b ha hb
    cases i with
    | zero =>
      rw [List.getElem?_cons_zero, Option.some_inj] at ha
      rw [List.getElem?_cons_succ, hwalk.getElem?_zero, Option.some_inj] at hb
      exact ha ▸ hb ▸ hpq
    | succ i => exact ih i a b ha hb

end UnitWalk

/-! ### The Bresenham loop (R222) -/

/-- The band of the error term, for a walk with `a` columns and `b` rows to go: the walk goes one column a pass
where `dy ≤ dx`, else one row a pass, and the band lets no pass miss that step. -/
def BresBand (dx dy a b err : Int) (k : Nat) : Prop :=
  (a = k ∧ dy ≤ dx ∧ -dy < 2 * err ∧ 2 * err < 3 * dx - 2 * dy) ∨
  (b = k ∧ dx < dy ∧ 2 * dx - 3 * dy < 2 * err ∧ 2 * err < dx)

/-- The loop toward `(x2, y2)` stands at `(x, y)`, `k` passes before its last one. -/
def BresAt (x2 y2 sx dx dy : Int) (k : Nat) (x y err : Int) : Prop :=
  ∃ a b : Int, x + a * sx = x2 ∧ y + b = y2 ∧ err = dx * (1 - b) - dy * (1 - a) ∧ BresBand dx dy a b err k

section
variable {x2 y2 sx dx dy x y err : Int} {k : Nat}

/-- Where the side that leads has no step to go, the band leaves the other none. -/
theorem BresBand.zero {a b : Int} (hdx : 0 ≤ dx) (hdy : 0 ≤ dy) (h : BresBand dx dy a b err 0)
    (herr : err = dx * (1 - b) - dy * (1 - a)) : a = 0 ∧ b = 0 := by
  rcases h with ⟨ha, hle, hlow, hhigh⟩ | ⟨hb, hlt, hlow, hhigh⟩
  · have ha : a = 0 := ha
    subst ha
    have h1 : b < 1 := by nlinarith
    have h2 : -1 < b := by nlinarith
    omega
  · have hb : b = 0 := hb
    subst hb
    have h1 : a < 1 := by nlinarith
    have h2 : -1 < a := by nlinarith
    omega

theorem BresAt.zero (hdx : 0 ≤ dx) (hdy : 0 ≤ dy) (h : BresAt x2 y2 sx dx dy 0 x y err) : x = x2 ∧ y = y2 := by
  obtain ⟨a, b, hx, hy, herr, hband⟩ := h
  obtain ⟨rfl, rfl⟩ := hband.zero hdx hdy herr
  omega

theorem BresAt.not_at_goal (hsx : sx = 1 ∨ sx = -1) (h : BresAt x2 y2 sx dx dy (k + 1) x y err) :
    ¬ (x = x2 ∧ y = y2) := by
  obtain ⟨a, b, hx, hy, -, hband⟩ := h
  rcases hsx with rfl | rfl <;> rcases hband with ⟨ha, -⟩ | ⟨hb, -⟩ <;> omega

/-- The two tests of a pass find the side that leads, and keep the error term in its band. -/
theorem BresBand.step {a b : Int} (hdx : 0 ≤ dx) (hdy : 0 ≤ dy) (h : BresBand dx dy a b err (k + 1)) :
    (-dy < 2 * err ∨ 2 * err < dx) ∧
    BresBand dx dy (if -dy < 2 * err then a - 1 else a) (if 2 * err < dx then b - 1 else b)
      (err - (if -dy < 2 * err then dy else 0) + (if 2 * err < dx then dx else 0)) k := by
  unfold BresBand at *
  rcases h with ⟨ha, hle, hlow, hhigh⟩ | ⟨hb, hlt, hlow, hhigh⟩
  · rw [if_pos hlow, if_pos hlow]
    refine ⟨.inl hlow, .inl ?_⟩
    split_ifs <;> omega
  · rw [if_pos hhigh, if_pos hhigh]
    refine ⟨.inr hhigh, .inr ?_⟩
    split_ifs <;> omega

theorem BresAt.step (hdx : 0 ≤ dx) (hdy : 0 ≤ dy) (h : BresAt x2 y2 sx dx dy (k + 1) x y err) :
    (-dy < 2 * err ∨ 2 * err < dx) ∧
    BresAt x2 y2 sx dx dy k (if -dy < 2 * err then x + sx else x) (if 2 * err < dx then y + 1 else y)
      (err - (if -dy < 2 * err then dy else 0) + (if 2 * err < dx then dx else 0)) := by
  obtain ⟨a, b, hx, hy, herr, hband⟩ := h
  obtain ⟨hsome, hnext⟩ := hband.step hdx hdy
  refine ⟨hsome, _, _, ?_, ?_, ?_, hnext⟩
  · split_ifs
    · linear_combination hx
    · exact hx
  · split_ifs
    · linear_combination hy
    · exact hy
  · split_ifs <;> linear_combination herr

theorem unitStep_bres (hsx : sx = 1 ∨ sx = -1) (h : -dy < 2 * err ∨ 2 * err < dx) :
    UnitStep (x, y) (if -dy < 2 * err then x + sx else x, if 2 * err < dx then y + 1 else y) := by
  simp only [UnitStep, ne_eq, Prod.mk.injEq]
  split_ifs <;> omega

theorem bresLoop_at_goal (fuel : Nat) (h : x = x2 ∧ y = y2) :
    bresLoop x2 y2 sx dx dy (fuel + 1) x y err = [(x, y)] := by simp only [bresLoop, if_pos h]

theorem bresLoop_step (fuel : Nat) (h : ¬ (x = x2 ∧ y = y2)) : bresLoop x2 y2 sx dx dy (fuel + 1) x y err =
    (x, y) :: bresLoop x2 y2 sx dx dy fuel (if -dy < 2 * err then x + sx else x) (if 2 * err < dx then y + 1 else y)
      (err - (if -dy < 2 * err then dy else 0) + (if 2 * err < dx then dx else 0)) := by
  simp only [bresLoop, if_neg h]

theorem bresLoop_unitWalk (hdx : 0 ≤ dx) (hdy : 0 ≤ dy) (hsx : sx = 1 ∨ sx = -1) (h : BresAt x2 y2 sx dx dy k x y err)
    {fuel : Nat} (hfuel : k < fuel) : UnitWalk (x2, y2) k (x, y) (bresLoop x2 y2 sx dx dy fuel x y err) := by
  induction k generalizing x y err fuel with
  | zero =>
    obtain ⟨fuel, rfl⟩ := Nat.exists_eq_add_one.mpr hfuel
    have hgoal := h.zero hdx hdy
    rw [bresLoop_at_goal fuel hgoal, hgoal.1, hgoal.2]
    exact .stop
  | succ k ih =>
    obtain ⟨fuel, rfl⟩ := Nat.exists_eq_add_one.mpr (Nat.zero_lt_of_lt hfuel)
    obtain ⟨hsome, hnext⟩ := h.step hdx hdy
    rw [bresLoop_step fuel (h.not_at_goal hsx)]
    exact .step (unitStep_bres hsx hsome) (ih hnext (Nat.lt_of_succ_lt_succ hfuel))

end

section
variable {x1 y1 x2 y2 : Int}

theorem bresFrom_point (x y : Int) : bresFrom x y x y = [(x, y)] := bresLoop_at_goal _ ⟨rfl, rfl⟩

/-- The loop starts in its band, unless the line is a point. -/
theorem bresAt_start (hy : y1 ≤ y2) (hne : ¬ (x1 = x2 ∧ y1 = y2)) :
    BresAt x2 y2 (if x1 < x2 then 1 else -1) (x2 - x1).natAbs (y2 - y1) (max (x2 - x1).natAbs (y2 - y1).natAbs) x1 y1
      ((x2 - x1).natAbs - (y2 - y1)) := by
  refine ⟨(x2 - x1).natAbs, y2 - y1, ?_, by omega, by ring, ?_⟩
  · split_ifs <;> omega
  · unfold BresBand
    omega

theorem bresFrom_unitWalk (hy : y1 ≤ y2) :
    UnitWalk (x2, y2) (max (x2 - x1).natAbs (y2 - y1).natAbs) (x1, y1) (bresFrom x1 y1 x2 y2) := by
  by_cases hpoint : x1 = x2 ∧ y1 = y2
  · obtain ⟨rfl, rfl⟩ := hpoint
    rw [bresFrom_point, sub_self, sub_self]
    exact .stop
  · exact bresLoop_unitWalk (by omega) (by omega) (by split_ifs <;> simp) (bresAt_start hy hpoint) (by omega)

/-- The canonical order of R222 is the same from either end. -/
theorem bresPoints_symm (x1 y1 x2 y2 : Int) : bresPoints x2 y2 x1 y1 = bresPoints x1 y1 x2 y2 := by
  by_cases hpoint : x1 = x2 ∧ y1 = y2
  · rw [hpoint.1, hpoint.2]
  · unfold bresPoints
    split_ifs
    · omega
    · rfl
    · rfl
    · omega

/-- The line is one walk between its ends, started at the upper one. -/
theorem bresPoints_unitWalk (x1 y1 x2 y2 : Int) :
    UnitWalk (x2, y2) (max (x2 - x1).natAbs (y2 - y1).natAbs) (x1, y1) (bresPoints x1 y1 x2 y2) ∨
    UnitWalk (x1, y1) (max (x2 - x1).natAbs (y2 - y1).natAbs) (x2, y2) (bresPoints x1 y1 x2 y2) := by
  unfold bresPoints
  split_ifs with hswap
  · right
    rw [← Int.natAbs_neg (x2 - x1), ← Int.natAbs_neg (y2 - y1), neg_sub, neg_sub]
    exact bresFrom_unitWalk (by omega)
  · exact .inl (bresFrom_unitWalk (by omega))

end

/-- Settles O39: the loop is a walk by unit steps from the upper end, whichever end the line is drawn from. -/
theorem bresenhamWalk : Obligations.BresenhamWalk := by
  intro x1 y1 x2 y2
  rcases bresPoints_unitWalk x1 y1 x2 y2 with hwalk | hwalk
  · exact ⟨hwalk.length, hwalk.start_mem, hwalk.goal_mem, bresPoints_symm x1 y1 x2 y2, hwalk.unitStep⟩
  · exact ⟨hwalk.length, hwalk.goal_mem, hwalk.start_mem, bresPoints_symm x1 y1 x2 y2, hwalk.unitStep⟩

/-! ### The pairs of a Wu line (R225, R226) -/

/-- The entries of a list of pairs written out in order, two for each. -/
theorem getElem?_flatMap_pairs {α : Type} (f : Nat → List α) (hf : ∀ i, (f i).length = 2) {n i : Nat} (hi : i < n)
    {j : Nat} (hj : j < 2) : ((List.range n).flatMap f)[2 * i + j]? = (f i)[j]? := by
  induction n with
  | zero => omega
  | succ n ih =>
    have hlen : ((List.range n).flatMap f).length = 2 * n := by
      simp [List.length_flatMap, hf, mul_comm]
    rw [List.range_succ, List.flatMap_append, List.flatMap_singleton]
    rcases Nat.lt_succ_iff_lt_or_eq.mp hi with hlt | rfl
    · rw [List.getElem?_append_left (by omega), ih hlt]
    · rw [List.getElem?_append_right (by omega), hlen, Nat.add_sub_cancel_left]

/-- The rounded weight of the far pixel: the fraction is below 1, so the weight is in range. -/
theorem wuWeight_range {dx : Int} (hdx : 0 < dx) (num : Int) :
    0 ≤ (255 * (num - num / dx * dx) + dx / 2) / dx ∧ (255 * (num - num / dx * dx) + dx / 2) / dx ≤ 255 := by
  have hfr : num - num / dx * dx = num % dx := by rw [Int.emod_def, mul_comm]
  have h0 : 0 ≤ num % dx := Int.emod_nonneg num hdx.ne'
  have h1 : num % dx < dx := Int.emod_lt_of_pos num hdx
  rw [hfr]
  exact ⟨Int.ediv_nonneg (by omega) (by omega), Int.lt_add_one_iff.mp (Int.ediv_lt_of_lt_mul hdx (by omega))⟩

/-- Two plots that share the weight 255, at the place `u` of the major axis: the near one and its neighbour across
the minor axis. -/
def PlotsPairAt (steep : Bool) (u : Int) (p q : Plot) : Prop :=
  p.a + q.a = 255 ∧ 0 ≤ p.a ∧ 0 ≤ q.a ∧
    (if steep then q.x = p.x + 1 ∧ q.y = p.y ∧ p.y = u else q.x = p.x ∧ q.y = p.y + 1 ∧ p.x = u)

theorem wuStep_pair (steep : Bool) (x1 y1 : Int) {dx : Int} (hdx : 0 < dx) (dy i : Int) :
    ∃ p q : Plot, wuStep steep x1 y1 dx dy i = [p, q] ∧ PlotsPairAt steep (x1 + i) p q := by
  obtain ⟨h0, h1⟩ := wuWeight_range hdx (i * dy)
  cases steep
  · exact ⟨_, _, rfl, sub_add_cancel _ _, sub_nonneg.mpr h1, h0, rfl, rfl, rfl⟩
  · exact ⟨_, _, rfl, sub_add_cancel _ _, sub_nonneg.mpr h1, h0, rfl, rfl, rfl⟩

theorem wuStep_length (steep : Bool) (x1 y1 dx dy i : Int) : (wuStep steep x1 y1 dx dy i).length = 2 := by
  cases steep <;> rfl

theorem wuFrom_eq (steep : Bool) (x1 y1 x2 y2 : Int) : wuFrom steep x1 y1 x2 y2 =
    (List.range (x2 - x1 + 1).toNat).flatMap fun i : Nat => wuStep steep x1 y1 (x2 - x1) (y2 - y1) i := by
  simp [wuFrom, List.flatMap_assoc]

theorem wuFrom_length (steep : Bool) (x1 y1 x2 y2 : Int) :
    (wuFrom steep x1 y1 x2 y2).length = 2 * (x2 - x1 + 1).toNat := by
  simp [wuFrom_eq, List.length_flatMap, wuStep_length, mul_comm]

/-- The plots number `2 * i` and `2 * i + 1` of the list are a pair at the place `u` of the major axis. -/
def WuPair (steep : Bool) (u : Int) (ps : List Plot) (i : Nat) : Prop :=
  ∃ p q : Plot, ps[2 * i]? = some p ∧ ps[2 * i + 1]? = some q ∧ PlotsPairAt steep u p q

theorem wuFrom_pair (steep : Bool) {x1 x2 : Int} (y1 y2 : Int) (hx : x1 < x2) {i : Nat}
    (hi : i < (x2 - x1 + 1).toNat) : WuPair steep (x1 + i) (wuFrom steep x1 y1 x2 y2) i := by
  obtain ⟨p, q, hstep, hpair⟩ := wuStep_pair steep x1 y1 (sub_pos.mpr hx) (y2 - y1) i
  have hget : ∀ j < 2, (wuFrom steep x1 y1 x2 y2)[2 * i + j]? = [p, q][j]? := fun j hj => by
    rw [wuFrom_eq, getElem?_flatMap_pairs _ (fun _ => wuStep_length ..) hi hj, hstep]
  exact ⟨p, q, hget 0 (by omega), hget 1 (by omega), hpair⟩

/-- The steps of `wuFrom`, from the lower of the two ends of the major axis on (R225). -/
def wuRising (steep : Bool) (a1 b1 a2 b2 : Int) : List Plot :=
  if a2 < a1 then wuFrom steep a2 b2 a1 b1 else wuFrom steep a1 b1 a2 b2

theorem wuPlots_of_steep {x1 y1 x2 y2 : Int} (h : (x2 - x1).natAbs < (y2 - y1).natAbs) :
    wuPlots x1 y1 x2 y2 = wuRising true y1 x1 y2 x2 := by
  simp only [wuPlots, wuRising, h, decide_true, if_true]

theorem wuPlots_of_flat {x1 y1 x2 y2 : Int} (h : ¬ (x2 - x1).natAbs < (y2 - y1).natAbs) :
    wuPlots x1 y1 x2 y2 = wuRising false x1 y1 x2 y2 := by
  simp only [wuPlots, wuRising, h, decide_false, Bool.false_eq_true, if_false]

section
variable {a1 a2 : Int} (steep : Bool) (b1 b2 : Int)

/-- The exchange of R225 leaves no trace of which end came first (assumption 15). -/
theorem wuRising_symm (h : a1 ≠ a2) : wuRising steep a2 b2 a1 b1 = wuRising steep a1 b1 a2 b2 := by
  rcases lt_or_gt_of_ne h with hlt | hgt
  · rw [wuRising, wuRising, if_pos hlt, if_neg hlt.asymm]
  · rw [wuRising, wuRising, if_neg hgt.asymm, if_pos hgt]

theorem wuRising_eq_wuFrom (h : a1 ≠ a2) :
    ∃ c1 c2 : Int, wuRising steep a1 b1 a2 b2 = wuFrom steep (min a1 a2) c1 (max a1 a2) c2 := by
  rcases lt_or_gt_of_ne h with hlt | hgt
  · exact ⟨b1, b2, by rw [min_eq_left hlt.le, max_eq_right hlt.le, wuRising, if_neg hlt.asymm]⟩
  · exact ⟨b2, b1, by rw [min_eq_right hgt.le, max_eq_left hgt.le, wuRising, if_pos hgt]⟩

theorem wuRising_length (h : a1 ≠ a2) :
    (wuRising steep a1 b1 a2 b2).length = 2 * ((a2 - a1).natAbs + 1) := by
  obtain ⟨c1, c2, heq⟩ := wuRising_eq_wuFrom steep b1 b2 h
  rw [heq, wuFrom_length]
  omega

theorem wuRising_pair (h : a1 ≠ a2) {i : Nat} (hi : i ≤ (a2 - a1).natAbs) :
    WuPair steep (min a1 a2 + i) (wuRising steep a1 b1 a2 b2) i := by
  obtain ⟨c1, c2, heq⟩ := wuRising_eq_wuFrom steep b1 b2 h
  rw [heq]
  exact wuFrom_pair steep c1 c2 (by omega) (by omega)

end

theorem wuPlots_symm {x1 y1 x2 y2 : Int} (hx : x1 ≠ x2) (hy : y1 ≠ y2) :
    wuPlots x2 y2 x1 y1 = wuPlots x1 y1 x2 y2 := by
  by_cases hsteep : (x2 - x1).natAbs < (y2 - y1).natAbs
  · rw [wuPlots_of_steep hsteep, wuPlots_of_steep (by omega), wuRising_symm true x1 x2 hy]
  · rw [wuPlots_of_flat hsteep, wuPlots_of_flat (by omega), wuRising_symm false y1 y2 hx]

/-- Settles O40: each step of the walk along the rising major axis is one pair. -/
theorem wuPlotsPairUp : Obligations.WuPlotsPairUp := by
  intro x1 y1 x2 y2 hx hy
  have hsymm : ∀ p : Plot, p ∈ wuPlots x2 y2 x1 y1 ↔ p ∈ wuPlots x1 y1 x2 y2 := fun p => by rw [wuPlots_symm hx hy]
  by_cases hsteep : (x2 - x1).natAbs < (y2 - y1).natAbs
  · refine ⟨?_, hsymm, fun i hi => ?_⟩
    · rw [wuPlots_of_steep hsteep, wuRising_length true x1 x2 hy, max_eq_right hsteep.le]
    · rw [max_eq_right hsteep.le] at hi
      simpa only [WuPair, PlotsPairAt, if_pos hsteep, wuPlots_of_steep hsteep, if_true]
        using wuRising_pair true x1 x2 hy hi
  · refine ⟨?_, hsymm, fun i hi => ?_⟩
    · rw [wuPlots_of_flat hsteep, wuRising_length false y1 y2 hx, max_eq_left (not_lt.mp hsteep)]
    · rw [max_eq_left (not_lt.mp hsteep)] at hi
      simpa only [WuPair, PlotsPairAt, if_neg hsteep, wuPlots_of_flat hsteep, Bool.false_eq_true, if_false]
        using wuRising_pair false y1 y2 hx hi

/-! ### The weights of a thick line (R227) -/

theorem thickCov_range (t : ThickLine) (hed : 0 ≤ t.ed) (e : Int) : 0 ≤ thickCov t e ∧ thickCov t e ≤ 255 := by
  simp only [thickCov]
  split_ifs with hnum
  · omega
  · have := Int.ediv_nonneg (a := 255 * (512 * e - t.ed * t.wd2 + 2 * t.ed)) (b := 2 * t.ed) (by omega) (by omega)
    omega

section
variable {t : ThickLine} {p : Plot}

theorem thickSideX_weight {x0 : Int} {fuel : Nat} : ∀ {y2 e2 : Int}, p ∈ thickSideX t x0 fuel y2 e2 →
    ∃ e, p.a = thickCov t e := by
  induction fuel with
  | zero => simp [thickSideX]
  | succ fuel ih =>
    intro y2 e2 h
    rw [thickSideX] at h
    split_ifs at h
    · rcases List.mem_cons.mp h with rfl | h
      · exact ⟨_, rfl⟩
      · exact ih h
    · simp at h

/-- The line with its two axes exchanged. -/
def ThickLine.flip (t : ThickLine) : ThickLine := ⟨t.y1, t.x1, t.sy, t.sx, t.dy, t.dx, t.ed, t.wd2⟩

/-- The plot with its two coordinates exchanged. -/
def Plot.flip (p : Plot) : Plot := ⟨p.y, p.x, p.a⟩

/-- The side walk of a y step is that of an x step with the axes exchanged. -/
theorem thickSideY_eq_flip (y0 : Int) (fuel : Nat) : ∀ x2 e2 : Int,
    thickSideY t y0 fuel x2 e2 = (thickSideX t.flip y0 fuel x2 e2).map Plot.flip := by
  induction fuel with
  | zero => exact fun _ _ => rfl
  | succ fuel ih =>
    intro x2 e2
    simp only [thickSideY, thickSideX, ih, apply_ite (List.map Plot.flip), List.map_cons, List.map_nil]
    rfl

theorem thickSideY_weight {y0 x2 e2 : Int} {fuel : Nat} (h : p ∈ thickSideY t y0 fuel x2 e2) :
    ∃ e, p.a = thickCov t e := by
  rw [thickSideY_eq_flip] at h
  obtain ⟨q, hq, rfl⟩ := List.mem_map.mp h
  exact thickSideX_weight (t := t.flip) (p := q) hq

/-! ### The passes of the thick walk (R228, R229) -/

/-- The plots of one pass: the point itself, then the side pixels of the steps it takes; that of the y step is not
reached where the x step ends the walk. -/
def thickPass (t : ThickLine) (x y err : Int) : List Plot :=
  ⟨x, y, thickCov t (err - t.dx + t.dy).natAbs⟩ ::
    ((if -t.dx ≤ 2 * err then thickSideX t x (thickSideFuel t) y (err + t.dy) else []) ++
      (if ¬ (-t.dx ≤ 2 * err ∧ x = t.x1) ∧ 2 * err ≤ t.dy
        then thickSideY t y (thickSideFuel t) x (t.dx - err) else []))

/-- The two exits of a pass, each inside its own step. -/
def ThickExit (t : ThickLine) (x y err : Int) : Prop :=
  (-t.dx ≤ 2 * err ∧ x = t.x1) ∨ (2 * err ≤ t.dy ∧ y = t.y1)

theorem thickLoop_exit {x y err : Int} (fuel : Nat) (h : ThickExit t x y err) :
    thickLoop t (fuel + 1) x y err = thickPass t x y err := by
  by_cases hx : -t.dx ≤ 2 * err ∧ x = t.x1
  · simp [thickLoop, thickPass, hx]
  · have hy := h.resolve_left hx
    simp [thickLoop, thickPass, hx, hy]

theorem thickLoop_go_on {x y err : Int} (fuel : Nat) (h : ¬ ThickExit t x y err) :
    thickLoop t (fuel + 1) x y err = thickPass t x y err ++
      thickLoop t fuel (if -t.dx ≤ 2 * err then x + t.sx else x) (if 2 * err ≤ t.dy then y + t.sy else y)
        (err - (if -t.dx ≤ 2 * err then t.dy else 0) + (if 2 * err ≤ t.dy then t.dx else 0)) := by
  obtain ⟨hx, hy⟩ := not_or.mp h
  simp [thickLoop, thickPass, hx, hy]

theorem thickPass_weight {x y err : Int} (h : p ∈ thickPass t x y err) : ∃ e, p.a = thickCov t e := by
  rcases List.mem_cons.mp h with rfl | h
  · exact ⟨_, rfl⟩
  · rcases List.mem_append.mp h with h | h
    · split_ifs at h
      · exact thickSideX_weight h
      · simp at h
    · split_ifs at h
      · exact thickSideY_weight h
      · simp at h

theorem thickLoop_weight {fuel : Nat} : ∀ {x y err : Int}, p ∈ thickLoop t fuel x y err →
    ∃ e, p.a = thickCov t e := by
  induction fuel with
  | zero => simp [thickLoop]
  | succ fuel ih =>
    intro x y err h
    by_cases hexit : ThickExit t x y err
    · rw [thickLoop_exit fuel hexit] at h
      exact thickPass_weight h
    · rw [thickLoop_go_on fuel hexit] at h
      exact (List.mem_append.mp h).elim thickPass_weight ih

/-- A coordinate with `n` steps to go, moved where `P` says so, and not past the end. -/
theorem exists_steps_left {P : Prop} [Decidable P] {x d goal : Int} {n : Nat} (hx : x + n * d = goal)
    (hP : ¬ (P ∧ x = goal)) : ∃ m : Nat, (if P then x + d else x) + m * d = goal ∧ n = if P then m + 1 else m := by
  split_ifs with h
  · cases n with
    | zero => exact absurd ⟨h, by simpa using hx⟩ hP
    | succ m => exact ⟨m, by push_cast at hx; linear_combination hx, rfl⟩
  · exact ⟨n, hx, rfl⟩

/-- With `a` columns and `b` rows to go, fuel beyond `a + b` passes and the last one is not used: each pass takes one
step at least, or exits. -/
theorem thickLoop_fuel (hdx : 0 ≤ t.dx) (hdy : 0 ≤ t.dy) {n : Nat} : ∀ {a b : Nat} {x y err : Int} {f g : Nat},
    x + a * t.sx = t.x1 → y + b * t.sy = t.y1 → a + b ≤ n → n < f → n < g →
      thickLoop t f x y err = thickLoop t g x y err := by
  induction n with
  | zero =>
    intro a b x y err f g hx hy hn hf hg
    obtain ⟨f, rfl⟩ := Nat.exists_eq_add_one.mpr hf
    obtain ⟨g, rfl⟩ := Nat.exists_eq_add_one.mpr hg
    obtain ⟨rfl, rfl⟩ : a = 0 ∧ b = 0 := by omega
    have hexit : ThickExit t x y err := by
      unfold ThickExit
      omega
    rw [thickLoop_exit f hexit, thickLoop_exit g hexit]
  | succ n ih =>
    intro a b x y err f g hx hy hn hf hg
    obtain ⟨f, rfl⟩ := Nat.exists_eq_add_one.mpr (Nat.zero_lt_of_lt hf)
    obtain ⟨g, rfl⟩ := Nat.exists_eq_add_one.mpr (Nat.zero_lt_of_lt hg)
    by_cases hexit : ThickExit t x y err
    · rw [thickLoop_exit f hexit, thickLoop_exit g hexit]
    · obtain ⟨hexitX, hexitY⟩ := not_or.mp hexit
      obtain ⟨a', hx', ha⟩ := exists_steps_left hx hexitX
      obtain ⟨b', hy', hb⟩ := exists_steps_left hy hexitY
      have hless : a' + b' ≤ n := by split_ifs at ha hb <;> omega
      rw [thickLoop_go_on f hexit, thickLoop_go_on g hexit,
        ih hx' hy' hless (Nat.lt_of_succ_lt_succ hf) (Nat.lt_of_succ_lt_succ hg)]

/-! ### The passes of a side walk (R228) -/

theorem thickSideX_stop {x0 y e : Int} {fuel : Nat}
    (h : ¬ (512 * e < t.ed * t.wd2 ∧ (t.y1 ≠ y ∨ t.dy < t.dx))) : thickSideX t x0 fuel y e = [] := by
  cases fuel with
  | zero => rfl
  | succ fuel => exact if_neg h

/-- Fuel beyond `n` passes and the last one is not used where the walk cannot go on after `n` passes. -/
theorem thickSideX_fuel {x0 : Int} {n : Nat} : ∀ {y e : Int} {f g : Nat},
    ¬ (512 * (e + n * t.dx) < t.ed * t.wd2 ∧ (t.y1 ≠ y + n * t.sy ∨ t.dy < t.dx)) → n < f → n < g →
      thickSideX t x0 f y e = thickSideX t x0 g y e := by
  induction n with
  | zero =>
    intro y e f g hstop hf hg
    rw [Nat.cast_zero, zero_mul, zero_mul, add_zero, add_zero] at hstop
    rw [thickSideX_stop hstop, thickSideX_stop hstop]
  | succ n ih =>
    intro y e f g hstop hf hg
    obtain ⟨f, rfl⟩ := Nat.exists_eq_add_one.mpr (Nat.zero_lt_of_lt hf)
    obtain ⟨g, rfl⟩ := Nat.exists_eq_add_one.mpr (Nat.zero_lt_of_lt hg)
    have hnext : thickSideX t x0 f (y + t.sy) (e + t.dx) = thickSideX t x0 g (y + t.sy) (e + t.dx) := by
      refine ih ?_ (Nat.lt_of_succ_lt_succ hf) (Nat.lt_of_succ_lt_succ hg)
      rw [add_assoc e, add_assoc y, ← one_add_mul, ← one_add_mul, add_comm (1 : Int)]
      exact_mod_cast hstop
    rw [thickSideX, thickSideX, hnext]

/-- What the bounds on the passes rest on: extents that are no negative numbers, and a length `ED` of at most twice
the longer of them (in 1/256). -/
structure ThickLine.Bounded (t : ThickLine) : Prop where
  dx : 0 ≤ t.dx
  dy : 0 ≤ t.dy
  wd2 : 0 ≤ t.wd2
  ed : 0 ≤ t.ed
  ed_le : 0 < max t.dx t.dy → t.ed ≤ 512 * max t.dx t.dy

theorem ThickLine.Bounded.flip (h : t.Bounded) : t.flip.Bounded :=
  ⟨h.dy, h.dx, h.wd2, h.ed, fun hpos => max_comm t.dx t.dy ▸ h.ed_le (max_comm t.dx t.dy ▸ hpos)⟩

/-- A side walk ends: on the far end's row where the extent across it is the longer one, else within `w + 2` passes,
as each adds `dx` to the error term. -/
theorem thickSideX_extra (ht : t.Bounded) {x y e : Int} {b : Nat} (hy : y + b * t.sy = t.y1) (hb : b ≤ t.dy)
    (he : -t.dx ≤ 2 * e) (extra : Nat) : thickSideX t x (thickSideFuel t + extra) y (e + t.dy) =
      thickSideX t x (thickSideFuel t) y (e + t.dy) := by
  have hdx := ht.dx
  have hdy := ht.dy
  have hwd2 := ht.wd2
  by_cases hflat : t.dy < t.dx
  · refine thickSideX_fuel (n := (t.wd2 + 1).toNat) (fun h => ?_) (by unfold thickSideFuel; omega)
      (by unfold thickSideFuel; omega)
    have hed : t.ed * t.wd2 ≤ 512 * t.dx * t.wd2 :=
      mul_le_mul_of_nonneg_right (max_eq_left hflat.le ▸ ht.ed_le (by omega)) hwd2
    have hcast : (((t.wd2 + 1).toNat : Nat) : Int) = t.wd2 + 1 := by omega
    rw [hcast] at h
    linarith [h.1]
  · exact thickSideX_fuel (n := b) (fun h => h.2.elim (absurd hy.symm) hflat) (by unfold thickSideFuel; omega)
      (by unfold thickSideFuel; omega)

theorem thickSideY_extra (ht : t.Bounded) {x y e : Int} {a : Nat} (hx : x + a * t.sx = t.x1) (ha : a ≤ t.dx)
    (he : 2 * e ≤ t.dy) (extra : Nat) : thickSideY t y (thickSideFuel t + extra) x (t.dx - e) =
      thickSideY t y (thickSideFuel t) x (t.dx - e) := by
  have hfuel : thickSideFuel t = thickSideFuel t.flip := congrArg (fun d => (d + t.wd2 + 3).toNat) (add_comm t.dx t.dy)
  have herr : t.dx - e = -e + t.flip.dy := sub_eq_neg_add t.dx e
  rw [thickSideY_eq_flip, thickSideY_eq_flip, hfuel, herr, thickSideX_extra ht.flip hx ha (by
    change -t.dy ≤ _
    omega)]

end

/-! ### The line from its ends (R228) -/

section
variable (x0 y0 x1 y1 : Int) (w : Nat)

/-- `ED` of R228. -/
def thickLength (dx dy : Int) : Int := if dx + dy = 0 then 256 else isqrt ((dx * dx + dy * dy) * 65536).toNat

/-- What `thickPlots` keeps fixed for its walk. -/
def thickOf : ThickLine :=
  ⟨x1, y1, if x0 < x1 then 1 else -1, if y0 < y1 then 1 else -1, (x1 - x0).natAbs, (y1 - y0).natAbs,
    thickLength (x1 - x0).natAbs (y1 - y0).natAbs, (w : Int) + 1⟩

theorem thickPlots_eq : thickPlots x0 y0 x1 y1 w = thickLoop (thickOf x0 y0 x1 y1 w)
    (((x1 - x0).natAbs + (y1 - y0).natAbs : Int).toNat + 1) x0 y0 ((x1 - x0).natAbs - (y1 - y0).natAbs) := rfl

theorem thickLength_nonneg (dx dy : Int) : 0 ≤ thickLength dx dy := by
  unfold thickLength
  split_ifs
  · omega
  · exact Int.natCast_nonneg _

/-- The diagonal of a rectangle is at most twice its longer side. -/
theorem thickLength_le {dx dy : Int} (hdx : 0 ≤ dx) (hdy : 0 ≤ dy) (hpos : 0 < max dx dy) :
    thickLength dx dy ≤ 512 * max dx dy := by
  rw [thickLength, if_neg (by omega)]
  have hroot := (isqrt_spec ((dx * dx + dy * dy) * 65536).toNat).1
  generalize isqrt ((dx * dx + dy * dy) * 65536).toNat = r at hroot
  have hsquare : (r : Int) * r ≤ (dx * dx + dy * dy) * 65536 := by
    rw [← Int.toNat_of_nonneg (show 0 ≤ (dx * dx + dy * dy) * 65536 by positivity)]
    exact_mod_cast hroot
  have hx : dx * dx ≤ max dx dy * max dx dy := mul_self_le_mul_self hdx (le_max_left _ _)
  have hy : dy * dy ≤ max dx dy * max dx dy := mul_self_le_mul_self hdy (le_max_right _ _)
  refine nonneg_le_nonneg_of_sq_le_sq (by omega) ?_
  linarith [mul_self_nonneg (max dx dy)]

theorem thickOf_bounded : (thickOf x0 y0 x1 y1 w).Bounded where
  dx := Int.natCast_nonneg _
  dy := Int.natCast_nonneg _
  wd2 := Int.natCast_nonneg (w + 1)
  ed := thickLength_nonneg _ _
  ed_le := thickLength_le (Int.natCast_nonneg _) (Int.natCast_nonneg _)

/-- From a coordinate between the ends, so many unit steps lead to the far end. -/
theorem exists_steps_to {u0 u1 u : Int} (hlow : min u0 u1 ≤ u) (hhigh : u ≤ max u0 u1) :
    ∃ n : Nat, u + n * (if u0 < u1 then 1 else -1) = u1 ∧ n ≤ (u1 - u0).natAbs := by
  refine ⟨(u1 - u).natAbs, ?_, by omega⟩
  split_ifs <;> omega

/-- More fuel than `thickPlots` gives its walk changes nothing (assumption 9). -/
theorem thickLoop_extra (extra : Nat) : thickLoop (thickOf x0 y0 x1 y1 w)
    (((x1 - x0).natAbs + (y1 - y0).natAbs : Int).toNat + 1 + extra) x0 y0 ((x1 - x0).natAbs - (y1 - y0).natAbs) =
      thickPlots x0 y0 x1 y1 w := by
  have ht := thickOf_bounded x0 y0 x1 y1 w
  obtain ⟨a, hx, ha⟩ := exists_steps_to (min_le_left x0 x1) (le_max_left x0 x1)
  obtain ⟨b, hy, hb⟩ := exists_steps_to (min_le_left y0 y1) (le_max_left y0 y1)
  exact thickLoop_fuel ht.dx ht.dy (n := a + b) hx hy le_rfl (by omega) (by omega)

/-- A point is one full pixel: its one pass starts at the far end and finds no side pixel. -/
theorem thickPlots_point (hw : 1 ≤ w) : thickPlots x0 y0 x0 y0 w = [⟨x0, y0, 255⟩] := by
  have hdx : (thickOf x0 y0 x0 y0 w).dx = 0 := by simp only [thickOf, sub_self, Int.natAbs_zero, Nat.cast_zero]
  have hdy : (thickOf x0 y0 x0 y0 w).dy = 0 := by simp only [thickOf, sub_self, Int.natAbs_zero, Nat.cast_zero]
  have hed : (thickOf x0 y0 x0 y0 w).ed = 256 := by simp [thickOf, thickLength]
  have hwd2 : (thickOf x0 y0 x0 y0 w).wd2 = w + 1 := rfl
  have hgoal : (thickOf x0 y0 x0 y0 w).x1 = x0 := rfl
  have hcov : thickCov (thickOf x0 y0 x0 y0 w) 0 = 255 := by
    rw [thickCov, hed, hwd2]
    exact if_pos (by omega)
  have hexit : ThickExit (thickOf x0 y0 x0 y0 w) x0 y0 0 := .inl ⟨by omega, rfl⟩
  have hside (fuel : Nat) (e : Int) : thickSideX (thickOf x0 y0 x0 y0 w) x0 fuel y0 e = [] :=
    thickSideX_stop fun h => h.2.elim (absurd rfl) (by omega)
  rw [thickPlots_eq, sub_self, sub_self, sub_self, thickLoop_exit _ hexit]
  simp [thickPass, hdx, hdy, hgoal, hside, hcov]

end

/-- Settles O41: a pass takes a step still to take or exits, and the longer extent bounds the side walks. -/
theorem thickLineWalk : Obligations.ThickLineWalk := by
  intro x0 y0 x1 y1 w hw
  have ht := thickOf_bounded x0 y0 x1 y1 w
  refine ⟨fun p hp => ?_, thickPlots_point x0 y0 w hw, thickLoop_extra x0 y0 x1 y1 w,
    fun x y e extra hx0 hx1 hy0 hy1 => ⟨fun he => ?_, fun he => ?_⟩⟩
  · obtain ⟨e, he⟩ := thickLoop_weight hp
    rw [he]
    exact thickCov_range _ ht.ed e
  · obtain ⟨b, hb, hle⟩ := exists_steps_to hy0 hy1
    exact thickSideX_extra ht hb (Int.ofNat_le.mpr hle) he extra
  · obtain ⟨a, ha, hle⟩ := exists_steps_to hx0 hx1
    exact thickSideY_extra ht ha (Int.ofNat_le.mpr hle) he extra

end Sys2Proof.Machine
end

section
/-! SUPPORT. The round shapes (46_raster_round.md): which path each command takes, the octant of `midpoint` and the
rows nearest the circle, the octant walk of the oval, the two loops of the coverage steps, and the statements about
them. -/

namespace Sys2Proof.Machine

/-! ### Which path a command takes (R243, R246, R252, R253) -/

section
variable {p : Packet}

theorem decode_drawCircle (h : packetOp p = 0x16) :
    decode p = .ok (.drawCircle p.w1.toInt p.w2.toInt p.w3.toInt) := by
  simp only [decode, h, readS16]

theorem decode_drawOval (h : packetOp p = 0x17) :
    decode p = .ok (.drawOval p.w1.toInt p.w2.toInt p.w3.toInt p.w4.toInt) := by
  simp only [decode, h, readS16]

theorem decode_drawRoundRect (h : packetOp p = 0x18) :
    decode p = .ok (.drawRoundRect p.w1.toInt p.w2.toInt p.w3.toInt p.w4.toInt p.w5.toInt) := by
  simp only [decode, h, readS16]

theorem decode_fillRoundRect (h : packetOp p = 0x19) :
    decode p = .ok (.fillRoundRect p.w1.toInt p.w2.toInt p.w3.toInt p.w4.toInt p.w5.toInt) := by
  simp only [decode, h, readS16]

end

/-- The choice R246, R252 and R253 share: nothing, the shape without round corners, the coverage path, the aliased
path. -/
def roundPath (s : State) (empty square : Prop) [Decidable empty] [Decidable square]
    (plain coverage aliased : List Event) : List Event :=
  if empty then [] else if square then plain else if s.aa = true then coverage else aliased

section
variable {s : State} {empty square : Prop} [Decidable empty] [Decidable square] {plain coverage aliased : List Event}

theorem roundPath_empty (he : empty) : roundPath s empty square plain coverage aliased = [] := if_pos he

theorem roundPath_plain (he : ¬ empty) (hq : square) : roundPath s empty square plain coverage aliased = plain := by
  rw [roundPath, if_neg he, if_pos hq]

theorem roundPath_coverage (he : ¬ empty) (hq : ¬ square) (haa : s.aa = true) :
    roundPath s empty square plain coverage aliased = coverage := by
  rw [roundPath, if_neg he, if_neg hq, if_pos haa]

theorem roundPath_aliased (he : ¬ empty) (hq : ¬ square) (haa : s.aa = false) :
    roundPath s empty square plain coverage aliased = aliased := by
  rw [roundPath, if_neg he, if_neg hq, if_neg (by simp [haa])]

end

section
variable {s : State} {xc yc x y w h r : Int} {evs : List Event}

theorem ovalEvents_eq (s : State) (x y w h : Int) : ovalEvents s x y w h =
    roundPath s (w ≤ 0 ∨ h ≤ 0) ((w - 1) / 2 = 0 ∨ (h - 1) / 2 = 0) (rectOutline s s.fg x y w h)
      (aaRound s (sizedBox x y w h) ((w - 1) / 2) ((h - 1) / 2) true)
      (ovalDDA s (boxCentres (sizedBox x y w h) ((w - 1) / 2) ((h - 1) / 2)) ((w - 1) / 2) ((h - 1) / 2)) := rfl

theorem roundRectEvents_eq (s : State) (x y w h r : Int) : roundRectEvents s x y w h r =
    roundPath s (w ≤ 0 ∨ h ≤ 0 ∨ r < 0) (clampRadius w h r = 0) (rectOutline s s.fg x y w h)
      (aaRound s (sizedBox x y w h) (clampRadius w h r) (clampRadius w h r) true)
      (roundOutline s (sizedBox x y w h) (clampRadius w h r)) := rfl

theorem fillRoundRectEvents_eq (s : State) (x y w h r : Int) : fillRoundRectEvents s x y w h r =
    roundPath s (w ≤ 0 ∨ h ≤ 0 ∨ r < 0) (clampRadius w h r = 0) (fill s s.fg x y (x + w - 1) (y + h - 1))
      (aaRound s (sizedBox x y w h) (clampRadius w h r) (clampRadius w h r) false)
      (roundFill s (sizedBox x y w h) (clampRadius w h r)) := rfl

theorem exec_drawCircle (hs : s.nest = 0) (hevs : circleEvents s xc yc r = evs) :
    exec (.drawCircle xc yc r) s = .next (s.afterDrawing evs) := hevs ▸ drawing_paint s _ hs

theorem exec_drawOval (hs : s.nest = 0) (hevs : ovalEvents s x y w h = evs) :
    exec (.drawOval x y w h) s = .next (s.afterDrawing evs) := hevs ▸ drawing_paint s _ hs

theorem exec_drawRoundRect (hs : s.nest = 0) (hevs : roundRectEvents s x y w h r = evs) :
    exec (.drawRoundRect x y w h r) s = .next (s.afterDrawing evs) := hevs ▸ drawing_paint s _ hs

theorem exec_fillRoundRect (hs : s.nest = 0) (hevs : fillRoundRectEvents s x y w h r = evs) :
    exec (.fillRoundRect x y w h r) s = .next (s.afterDrawing evs) := hevs ▸ drawing_paint s _ hs

theorem circleEvents_negative (hr : r < 0) : circleEvents s xc yc r = [] := if_pos hr

theorem circleEvents_coverage (hr : 1 ≤ r) (haa : s.aa = true) :
    circleEvents s xc yc r = aaRound s ⟨xc - r, yc - r, xc + r, yc + r⟩ r r true := by
  rw [circleEvents, if_neg (by omega), if_pos ⟨haa, hr⟩]

theorem circleEvents_aliased (hr : 0 ≤ r) (h : s.aa = false ∨ r = 0) :
    circleEvents s xc yc r = stampOctants s ⟨xc, yc, xc, yc⟩ (midpoint r) := by
  have hno : ¬ (s.aa = true ∧ 1 ≤ r) := by
    rcases h with haa | rfl
    · simp [haa]
    · omega
  rw [circleEvents, if_neg (by omega), if_neg hno]

end

/-- Settles O42: the three branches of `circleEvents`; a stamp of an octant pair is two of `plot4`. -/
theorem drawCircle : Obligations.DrawCircle := by
  refine ⟨fun _ => decode_drawCircle, fun xc yc r s hs => ⟨fun hr => ?_, fun hr haa => ?_, fun hr h => ?_⟩⟩
  · exact exec_drawCircle hs (circleEvents_negative hr)
  · exact exec_drawCircle hs (circleEvents_coverage hr haa)
  · refine exec_drawCircle hs ((circleEvents_aliased hr h).trans ?_)
    simp only [stampOctants, plot4, List.append_assoc]

/-- Settles O43: the branches of `roundPath` for each of the three commands. -/
theorem ovalAndRoundedRectangles : Obligations.OvalAndRoundedRectangles := by
  refine ⟨fun _ => decode_drawOval, fun _ => decode_drawRoundRect, fun _ => decode_fillRoundRect, ?_⟩
  intro x y w h r s hs rx ry rc b
  have hoval := ovalEvents_eq s x y w h
  have hdraw := roundRectEvents_eq s x y w h r
  have hfill := fillRoundRectEvents_eq s x y w h r
  refine ⟨fun he => ?_, fun he => ⟨?_, ?_⟩, fun hw hh => ?_, fun hw hh hr => ?_⟩
  · exact exec_drawOval hs (hoval.trans (roundPath_empty he))
  · exact exec_drawRoundRect hs (hdraw.trans (roundPath_empty he))
  · exact exec_fillRoundRect hs (hfill.trans (roundPath_empty he))
  · have he : ¬ (w ≤ 0 ∨ h ≤ 0) := by omega
    refine ⟨fun hq => ?_, fun hx hy haa => ?_, fun hx hy haa => ?_⟩
    · exact exec_drawOval hs (hoval.trans (roundPath_plain he hq))
    · exact exec_drawOval hs (hoval.trans (roundPath_coverage he (not_or_intro hx hy) haa))
    · exact exec_drawOval hs (hoval.trans (roundPath_aliased he (not_or_intro hx hy) haa))
  · have he : ¬ (w ≤ 0 ∨ h ≤ 0 ∨ r < 0) := by omega
    refine ⟨fun hq => ⟨?_, ?_⟩, fun hq haa => ⟨?_, ?_⟩, fun hq haa => ⟨?_, ?_⟩⟩
    · exact exec_drawRoundRect hs (hdraw.trans (roundPath_plain he hq))
    · exact exec_fillRoundRect hs (hfill.trans (roundPath_plain he hq))
    · exact exec_drawRoundRect hs (hdraw.trans (roundPath_coverage he hq haa))
    · exact exec_fillRoundRect hs (hfill.trans (roundPath_coverage he hq haa))
    · exact exec_drawRoundRect hs (hdraw.trans (roundPath_aliased he hq haa))
    · exact exec_fillRoundRect hs (hfill.trans (roundPath_aliased he hq haa))

/-! ### The midpoint octant (R241) -/

/-- Where the loop of `midpoint` can stand: its error term is that of the next column, and its row is the nearest
one to the circle while the octant lasts. -/
structure MidpointAt (r a b d : Int) : Prop where
  a_nonneg : 0 ≤ a
  b_le : b ≤ r
  d_eq : d = (a + 1) * (a + 1) + b * b - b - r * r
  low : a ≤ b → a * a + b * b - b ≤ r * r
  high : r * r ≤ a * a + b * b + b

section
variable {r a b d : Int}

theorem midpointAt_start (hr : 0 ≤ r) : MidpointAt r 0 r (1 - r) where
  a_nonneg := le_rfl
  b_le := le_rfl
  d_eq := by ring
  low _ := by linarith
  high := by linarith

theorem midpointLoop_past (fuel : Nat) (h : b < a) : midpointLoop fuel a b d = [] := by
  cases fuel with
  | zero => rfl
  | succ fuel => exact if_neg (by omega)

theorem midpointLoop_step (fuel : Nat) (h : a ≤ b) : midpointLoop (fuel + 1) a b d =
    (a, b) :: midpointLoop fuel (a + 1) (if d < 0 then b else b - 1)
      (d + if d < 0 then 2 * a + 3 else 2 * (a - b) + 5) := by
  rw [midpointLoop, if_pos h]
  split_ifs <;> simp only [add_assoc]

/-- The sign of the error term tells on which side of the row below the next column's row is. -/
theorem MidpointAt.step (h : MidpointAt r a b d) (hab : a ≤ b) :
    MidpointAt r (a + 1) (if d < 0 then b else b - 1) (d + if d < 0 then 2 * a + 3 else 2 * (a - b) + 5) := by
  obtain ⟨ha, hb, hd, hlow, hhigh⟩ := h
  split_ifs with hneg
  · exact ⟨by omega, hb, by linear_combination hd, fun _ => by linarith, by linarith⟩
  · exact ⟨by omega, by omega, by linear_combination hd, fun hnext => by linarith [hlow hab], by linarith⟩

/-- The pair of pass `k` is in column `k`, and the loop stood there inside the octant. -/
theorem midpointLoop_pair {fuel k : Nat} {p : Int × Int} (h : MidpointAt r a b d)
    (hp : (midpointLoop fuel a b d)[k]? = some p) : p.1 = a + k ∧ p.1 ≤ p.2 ∧ ∃ e, MidpointAt r p.1 p.2 e := by
  induction fuel generalizing a b d k with
  | zero => simp [midpointLoop] at hp
  | succ fuel ih =>
    rcases lt_or_ge b a with hlt | hab
    · simp [midpointLoop_past _ hlt] at hp
    · rw [midpointLoop_step fuel hab] at hp
      cases k with
      | zero =>
        obtain rfl : (a, b) = p := by simpa using hp
        exact ⟨by simp, hab, d, h⟩
      | succ k =>
        obtain ⟨hcol, hrest⟩ := ih (h.step hab) (by simpa using hp)
        exact ⟨by push_cast; omega, hrest⟩

/-- The row comes at least one nearer to the column in each pass, so the fuel need only exceed their distance. -/
theorem midpointLoop_fuel {fuel : Nat} (hfuel : b - a < fuel) (extra : Nat) :
    midpointLoop (fuel + extra) a b d = midpointLoop fuel a b d := by
  induction fuel generalizing a b d with
  | zero =>
    have hlt : b < a := by simpa using hfuel
    rw [midpointLoop_past _ hlt, midpointLoop_past _ hlt]
  | succ fuel ih =>
    rcases lt_or_ge b a with hlt | hab
    · rw [midpointLoop_past _ hlt, midpointLoop_past _ hlt]
    · rw [Nat.add_right_comm, midpointLoop_step _ hab, midpointLoop_step _ hab,
        ih (by split_ifs <;> omega)]

/-- The columns count up from 0 and none is past the radius. -/
theorem midpoint_length_le (hr : 0 ≤ r) : (midpoint r).length ≤ (r + 1).toNat := by
  by_contra hlong
  have hp := List.getElem?_eq_getElem (l := midpoint r) (not_le.mp hlong)
  obtain ⟨hcol, hle, _, hat⟩ := midpointLoop_pair (midpointAt_start hr) hp
  have := hat.b_le
  omega

end

/-- Settles O44: the loop keeps its row nearest the circle as long as it stays in the octant. -/
theorem midpointOctant : Obligations.MidpointOctant := by
  intro r hr
  refine ⟨?_, midpoint_length_le hr, midpointLoop_fuel (by omega), fun k p hp => ?_⟩
  · rw [midpoint, midpointLoop_step _ hr]
    rfl
  · obtain ⟨hcol, hle, _, hat⟩ := midpointLoop_pair (midpointAt_start hr) hp
    have hlow := hat.low hle
    have hhigh := hat.high
    exact ⟨by omega, hle, hat.b_le, by linarith, by linarith⟩

/-! ### The octant walk of the oval (R247, R248) -/

/-- The exit of the oval's walk: `i <= h`. -/
def OvalExit (ix iy : Int) : Prop := (iy + 32) / 64 ≤ (ix + 32) / 64

/-- Where the walk can stand with at most `n` passes after this one: the rounded point is in `0 .. m`, and while the
walk goes on the sum of its variables has not fallen, so that `ix` grows by 32 or more a pass. -/
structure OvalAt (m : Int) (n : Nat) (ix iy : Int) : Prop where
  ix_nonneg : 0 ≤ ix
  ix_lt : ix < 64 * m + 32
  iy_ge : -32 ≤ iy
  iy_le : iy ≤ 64 * m
  passes : 64 * m ≤ ix + 32 * n
  sum : OvalExit ix iy ∨ 64 * m ≤ ix + iy

section
variable {m ix iy : Int} {n : Nat}

theorem ovalAt_start (hm : 1 ≤ m) : OvalAt m (2 * m.toNat) 0 (64 * m) where
  ix_nonneg := le_rfl
  ix_lt := by omega
  iy_ge := by omega
  iy_le := le_rfl
  passes := by omega
  sum := .inr (by omega)

/-- The rise of `ix` in one pass that is not the last. -/
theorem OvalAt.rise_range (h : OvalAt m n ix iy) (hm : 1 ≤ m) (hgo : ¬ OvalExit ix iy) : 32 ≤ iy / m ∧ iy / m ≤ 64 := by
  have hsum := h.sum.resolve_left hgo
  have hle := h.iy_le
  unfold OvalExit at hgo
  exact ⟨(Int.le_ediv_iff_mul_le (by omega)).mpr (by omega), Int.ediv_le_of_le_mul (by omega) hle⟩

/-- What a pass takes from `iy` leaves it within half a pixel of the axis. -/
theorem OvalAt.fall_le (h : OvalAt m n ix iy) (hm : 1 ≤ m) (hgo : ¬ OvalExit ix iy) :
    (ix + iy / m) / m ≤ iy + 32 := by
  obtain ⟨-, hq⟩ := h.rise_range hm hgo
  have hix := h.ix_nonneg
  unfold OvalExit at hgo
  rcases hm.eq_or_lt with rfl | hm2
  · rw [Int.ediv_one, Int.ediv_one]
    omega
  · refine Int.ediv_le_of_le_mul (by omega) ?_
    calc ix + iy / m ≤ (iy + 32) * 2 := by omega
      _ ≤ (iy + 32) * m := by gcongr <;> omega

theorem OvalAt.passes_pos (h : OvalAt m n ix iy) (hgo : ¬ OvalExit ix iy) : 0 < n := by
  obtain ⟨-, -, -, hle, hpasses, -⟩ := h
  unfold OvalExit at hgo
  omega

theorem OvalAt.step (h : OvalAt m n ix iy) (hm : 1 ≤ m) (hgo : ¬ OvalExit ix iy) :
    OvalAt m (n - 1) (ix + iy / m) (iy - (ix + iy / m) / m) := by
  obtain ⟨hqlow, hqhigh⟩ := h.rise_range hm hgo
  have hfall := h.fall_le hm hgo
  have hsum := h.sum.resolve_left hgo
  obtain ⟨hix, hlt, -, hle, hpasses, -⟩ := h
  have hfall0 : 0 ≤ (ix + iy / m) / m := Int.ediv_nonneg (by omega) (by omega)
  refine ⟨by omega, by unfold OvalExit at hgo; omega, by omega, by omega, by omega, ?_⟩
  rcases le_total (ix + iy / m) iy with hbelow | habove
  · have hmono : (ix + iy / m) / m ≤ iy / m := Int.ediv_le_ediv (by omega) hbelow
    exact .inr (by omega)
  · exact .inl (by unfold OvalExit; omega)

/-- The point of a pass, `(h, i)`. -/
def ovalPoint (ix iy : Int) : Int × Int := ((ix + 32) / 64, (iy + 32) / 64)

theorem ovalPoint_range (h : OvalAt m n ix iy) : (0 ≤ (ovalPoint ix iy).1 ∧ (ovalPoint ix iy).1 ≤ m) ∧
    0 ≤ (ovalPoint ix iy).2 ∧ (ovalPoint ix iy).2 ≤ m := by
  obtain ⟨hix, hlt, hge, hle, -, -⟩ := h
  unfold ovalPoint
  omega

theorem ovalLoop_exit (fuel : Nat) (h : OvalExit ix iy) : ovalLoop m (fuel + 1) ix iy = [ovalPoint ix iy] :=
  congrArg (List.cons _) (if_pos h)

theorem ovalLoop_step (fuel : Nat) (h : ¬ OvalExit ix iy) : ovalLoop m (fuel + 1) ix iy =
    ovalPoint ix iy :: ovalLoop m fuel (ix + iy / m) (iy - (ix + iy / m) / m) :=
  congrArg (List.cons _) (if_neg h)

theorem ovalLoop_length_pos {fuel : Nat} (h : 0 < fuel) : 0 < (ovalLoop m fuel ix iy).length := by
  obtain ⟨fuel, rfl⟩ := Nat.exists_eq_add_one.mpr h
  exact Nat.zero_lt_succ _

/-- With more passes at hand than the walk takes, more of them change nothing. -/
theorem ovalLoop_fuel {fuel : Nat} (h : OvalAt m n ix iy) (hm : 1 ≤ m) (hfuel : n < fuel) (extra : Nat) :
    ovalLoop m (fuel + extra) ix iy = ovalLoop m fuel ix iy := by
  induction fuel generalizing ix iy n with
  | zero => exact absurd hfuel (Nat.not_lt_zero n)
  | succ fuel ih =>
    rw [Nat.add_right_comm]
    by_cases hexit : OvalExit ix iy
    · rw [ovalLoop_exit _ hexit, ovalLoop_exit _ hexit]
    · have hpos := h.passes_pos hexit
      rw [ovalLoop_step _ hexit, ovalLoop_step _ hexit, ih (h.step hm hexit) (by omega)]

/-- Each point of the walk is where the walk could stand, and only the last one meets the exit. -/
theorem ovalLoop_point {fuel k : Nat} {p : Int × Int} (h : OvalAt m n ix iy) (hm : 1 ≤ m) (hfuel : n < fuel)
    (hp : (ovalLoop m fuel ix iy)[k]? = some p) :
    ((0 ≤ p.1 ∧ p.1 ≤ m) ∧ 0 ≤ p.2 ∧ p.2 ≤ m) ∧ (p.2 ≤ p.1 ↔ k + 1 = (ovalLoop m fuel ix iy).length) := by
  induction fuel generalizing ix iy n k with
  | zero => exact absurd hfuel (Nat.not_lt_zero n)
  | succ fuel ih =>
    by_cases hexit : OvalExit ix iy
    · rw [ovalLoop_exit _ hexit] at hp ⊢
      obtain ⟨rfl, rfl⟩ : k = 0 ∧ ovalPoint ix iy = p := by simpa [List.getElem?_singleton] using hp
      exact ⟨ovalPoint_range h, iff_of_true hexit rfl⟩
    · have hpos := h.passes_pos hexit
      rw [ovalLoop_step _ hexit] at hp ⊢
      rw [List.length_cons]
      cases k with
      | zero =>
        obtain rfl : ovalPoint ix iy = p := by simpa using hp
        have hrest : 0 < (ovalLoop m fuel (ix + iy / m) (iy - (ix + iy / m) / m)).length :=
          ovalLoop_length_pos (by omega)
        exact ⟨ovalPoint_range h, iff_of_false hexit (by omega)⟩
      | succ k =>
        obtain ⟨hrange, hlast⟩ := ih (h.step hm hexit) (by omega) (by simpa using hp)
        exact ⟨hrange, by omega⟩

end

/-- A coordinate up to the longer radius, scaled by the ratio of the radii, is up to the shorter one. -/
theorem scaled_le {v long short : Int} (hlong : 1 ≤ long) (hshort : 1 ≤ short) (hv : v ≤ long) :
    v * short / long ≤ short := by
  refine Int.ediv_le_of_le_mul (by omega) ?_
  rw [mul_comm short]
  exact Int.mul_le_mul_of_nonneg_right hv (by omega)

/-- Settles O45: the walk can only stand at points in range, and each pass but the last raises `ix` by 32. -/
theorem ovalWalk : Obligations.OvalWalk := by
  intro rx ry hrx hry m ps
  have hm : 1 ≤ m := hrx.trans (le_max_left rx ry)
  have hat := ovalAt_start hm
  refine ⟨?_, ovalLoop_fuel hat hm (by omega), fun k p hp => ?_⟩
  · have htop : ovalPoint 0 (64 * m) = (0, m) := Prod.ext rfl (show (64 * m + 32) / 64 = m by omega)
    exact congrArg some htop
  · obtain ⟨⟨⟨hh0, hhm⟩, hi0, him⟩, hlast⟩ := ovalLoop_point hat hm (by omega) hp
    refine ⟨hh0, hhm, hi0, him, hlast, ?_⟩
    split_ifs with hwide
    · have hmax : m = rx := max_eq_left hwide
      exact ⟨scaled_le hrx hry (hmax ▸ hhm), scaled_le hrx hry (hmax ▸ him)⟩
    · have hmax : m = ry := max_eq_right (by omega)
      exact ⟨scaled_le hry hrx (hmax ▸ hhm), scaled_le hry hrx (hmax ▸ him)⟩

/-! ### The coverage steps (R255, R262) -/

theorem aaWeight_range (d v : Int) : 0 ≤ aaWeight d v ∧ aaWeight d v ≤ 255 := by
  unfold aaWeight
  split_ifs
  · decide
  · have : 0 ≤ 255 * (d.natAbs : Int) / v.natAbs := Int.ediv_nonneg (by omega) (by omega)
    omega

section
variable {a2 b2 : Int}

/-- A pass of loop 1 yields a step of loop 1 with a weight of R255, and goes up by no row. -/
theorem aaPass1_spec (a2 b2 : Int) (v : AaVars) : (aaPass1 a2 b2 v).1.first = true ∧
    (∃ d u, (aaPass1 a2 b2 v).1.wgt = aaWeight d u) ∧ v.yp ≤ (aaPass1 a2 b2 v).2.yp := by
  unfold aaPass1
  dsimp only
  split_ifs <;> exact ⟨rfl, ⟨_, _, rfl⟩, by dsimp only; omega⟩

/-- A pass of loop 2 yields a step of loop 2 with a weight of R255, and goes down one row. -/
theorem aaPass2_spec (a2 b2 : Int) (v : AaVars) : (aaPass2 a2 b2 v).1.first = false ∧
    (∃ d u, (aaPass2 a2 b2 v).1.wgt = aaWeight d u) ∧ (aaPass2 a2 b2 v).2.yp = v.yp + 1 := by
  unfold aaPass2
  dsimp only
  split_ifs <;> exact ⟨rfl, ⟨_, _, rfl⟩, rfl⟩

theorem aaLoop1_length (n : Nat) (v : AaVars) : (aaLoop1 a2 b2 n v).1.length = n := by
  induction n generalizing v with
  | zero => rfl
  | succ n ih => exact congrArg (· + 1) (ih _)

theorem aaLoop1_yp (n : Nat) (v : AaVars) : v.yp ≤ (aaLoop1 a2 b2 n v).2.yp := by
  induction n generalizing v with
  | zero => exact le_rfl
  | succ n ih => exact (aaPass1_spec a2 b2 v).2.2.trans (ih _)

theorem aaLoop1_mem {n : Nat} {v : AaVars} {st : AaStep} (h : st ∈ (aaLoop1 a2 b2 n v).1) :
    ∃ w, st = (aaPass1 a2 b2 w).1 := by
  induction n generalizing v with
  | zero => simp [aaLoop1] at h
  | succ n ih =>
    rcases List.mem_cons.mp h with rfl | h
    · exact ⟨v, rfl⟩
    · exact ih h

theorem aaLoop2_end (fuel : Nat) {v : AaVars} (h : 0 ≤ v.yp) : aaLoop2 a2 b2 fuel v = [] := by
  cases fuel with
  | zero => rfl
  | succ fuel => exact if_neg (by omega)

theorem aaLoop2_pass (fuel : Nat) {v : AaVars} (h : v.yp < 0) : aaLoop2 a2 b2 (fuel + 1) v =
    (aaPass2 a2 b2 v).1 :: aaLoop2 a2 b2 fuel (aaPass2 a2 b2 v).2 := if_pos h

theorem aaLoop2_mem {fuel : Nat} {v : AaVars} {st : AaStep} (h : st ∈ aaLoop2 a2 b2 fuel v) :
    ∃ w, st = (aaPass2 a2 b2 w).1 := by
  induction fuel generalizing v with
  | zero => simp [aaLoop2] at h
  | succ fuel ih =>
    rcases lt_or_ge v.yp 0 with hneg | hend
    · rw [aaLoop2_pass fuel hneg] at h
      rcases List.mem_cons.mp h with rfl | h
      · exact ⟨v, rfl⟩
      · exact ih h
    · simp [aaLoop2_end _ hend] at h

theorem aaLoop2_length_le (fuel : Nat) (v : AaVars) : (aaLoop2 a2 b2 fuel v).length ≤ (-v.yp).toNat := by
  induction fuel generalizing v with
  | zero => exact Nat.zero_le _
  | succ fuel ih =>
    rcases lt_or_ge v.yp 0 with hneg | hend
    · obtain ⟨-, -, hyp⟩ := aaPass2_spec a2 b2 v
      have hrest := ih (aaPass2 a2 b2 v).2
      rw [aaLoop2_pass fuel hneg, List.length_cons]
      omega
    · rw [aaLoop2_end _ hend]
      exact Nat.zero_le _

theorem aaLoop2_fuel {fuel : Nat} {v : AaVars} (hfuel : -v.yp < fuel) (extra : Nat) :
    aaLoop2 a2 b2 (fuel + extra) v = aaLoop2 a2 b2 fuel v := by
  induction fuel generalizing v with
  | zero =>
    have hend : 0 ≤ v.yp := by omega
    rw [aaLoop2_end _ hend, aaLoop2_end _ hend]
  | succ fuel ih =>
    rcases lt_or_ge v.yp 0 with hneg | hend
    · obtain ⟨-, -, hyp⟩ := aaPass2_spec a2 b2 v
      rw [Nat.add_right_comm, aaLoop2_pass _ hneg, aaLoop2_pass _ hneg, ih (by omega)]
    · rw [aaLoop2_end _ hend, aaLoop2_end _ hend]

end

/-- The length of loop 1, `dxt` of R255. -/
def aaLength1 (rx ry : Int) : Int := min (rx - 1) (256 * (rx * rx) / isqrt ((rx * rx + ry * ry) * 65536).toNat)

/-- Loop 1 of `aaSteps`, with the values it hands to loop 2. -/
def aaFirstLoop (rx ry : Int) : List AaStep × AaVars :=
  aaLoop1 (rx * rx) (ry * ry) (aaLength1 rx ry).toNat ⟨0, -ry, 0, -2 * (rx * rx) * ry, 0⟩

/-- Loop 2 of `aaSteps`. -/
def aaSecondLoop (rx ry : Int) : List AaStep :=
  aaLoop2 (rx * rx) (ry * ry) (ry.toNat + 1) (aaFirstLoop rx ry).2

theorem aaSteps_eq (rx ry : Int) : aaSteps rx ry = (aaFirstLoop rx ry).1 ++ aaSecondLoop rx ry := rfl

section
variable {rx ry : Int} {st : AaStep}

theorem first_of_mem_aaFirstLoop (h : st ∈ (aaFirstLoop rx ry).1) : st.first = true := by
  obtain ⟨v, rfl⟩ := aaLoop1_mem h
  exact (aaPass1_spec _ _ v).1

theorem not_first_of_mem_aaSecondLoop (h : st ∈ aaSecondLoop rx ry) : st.first = false := by
  obtain ⟨v, rfl⟩ := aaLoop2_mem h
  exact (aaPass2_spec _ _ v).1

/-- The flag `first` of a step tells the loops apart. -/
theorem filter_first_aaSteps : (aaSteps rx ry).filter (fun st => st.first) = (aaFirstLoop rx ry).1 := by
  rw [aaSteps_eq, List.filter_append, List.filter_eq_self.mpr fun _ => first_of_mem_aaFirstLoop,
    List.filter_eq_nil_iff.mpr fun _ h => by simp [not_first_of_mem_aaSecondLoop h], List.append_nil]

theorem filter_not_first_aaSteps : (aaSteps rx ry).filter (fun st => !st.first) = aaSecondLoop rx ry := by
  rw [aaSteps_eq, List.filter_append,
    List.filter_eq_nil_iff.mpr fun _ h => by simp [first_of_mem_aaFirstLoop h],
    List.filter_eq_self.mpr fun _ h => by simp [not_first_of_mem_aaSecondLoop h], List.nil_append]

theorem aaFirstLoop_length_le : (aaFirstLoop rx ry).1.length ≤ (rx - 1).toNat := by
  rw [aaFirstLoop, aaLoop1_length]
  exact Int.toNat_le_toNat (min_le_left _ _)

/-- Loop 2 starts at or below the top row `-ry`. -/
theorem aaSecondLoop_length_le : (aaSecondLoop rx ry).length ≤ ry.toNat := by
  have hyp : -ry ≤ (aaFirstLoop rx ry).2.yp := aaLoop1_yp _ _
  exact (aaLoop2_length_le _ _).trans (Int.toNat_le_toNat (by omega))

theorem aaSteps_weight (h : st ∈ aaSteps rx ry) : ∃ d v, st.wgt = aaWeight d v := by
  rw [aaSteps_eq] at h
  rcases List.mem_append.mp h with h | h
  · obtain ⟨v, rfl⟩ := aaLoop1_mem h
    exact (aaPass1_spec _ _ v).2.1
  · obtain ⟨v, rfl⟩ := aaLoop2_mem h
    exact (aaPass2_spec _ _ v).2.1

end

/-- Settles O46: loop 1 has its length beforehand, and each pass of loop 2 goes down one of the `ry` rows. -/
theorem coverageStepsBounded : Obligations.CoverageStepsBounded := by
  intro rx ry hrx hry
  refine ⟨?_, ?_, fun st hst => ?_, fun v extra hv => aaLoop2_fuel (by omega) extra⟩
  · rw [filter_first_aaSteps]
    exact aaFirstLoop_length_le
  · rw [filter_not_first_aaSteps]
    exact aaSecondLoop_length_le
  · obtain ⟨d, v, hw⟩ := aaSteps_weight hst
    rw [hw]
    exact aaWeight_range d v

end Sys2Proof.Machine
end

section
/-! SUPPORT. The font (47_glyph.md R270 to R275): the checks of SET_FONT, the scan of the glyph table record by record,
and the statements about them. -/

namespace Sys2Proof.Machine

/-! ### SET_FONT (R275) -/

theorem sliceOutOfRange_iff (s : State) (base size : Nat) :
    (!sliceInRange s base size) = true ↔ s.par.amemSize < base + size := by
  rw [Bool.not_eq_true', ← Bool.not_eq_true, sliceInRange_iff, Nat.not_le]

/-- The four checks in order, else the header's fields. -/
theorem exec_setFont (base size : Nat) (s : State) : exec (.setFont base size) s =
    if s.par.amemSize < base + size then .next (s.afterFailure .assetRange)
    else if size < 5 then .next (s.afterFailure .fontTrunc)
    else if be16 s base ≠ s.par.fontMagic.toNat then .next (s.afterFailure .fontMagic)
    else if memRead s (base + 2) ≠ s.par.fontTypeBitmask ∧ memRead s (base + 2) ≠ s.par.fontTypeAa then
      .next (s.afterFailure .fontType)
    else .next { s with
      fontBase := BitVec.ofNat 32 base, fontSize := BitVec.ofNat 32 size, fontType := memRead s (base + 2),
      fontLh := memRead s (base + 3), fontBl := memRead s (base + 4), fontValid := true, lastErr := 0#8 } := by
  simp only [exec, execSetFont, fontError, sliceOutOfRange_iff]
  split_ifs <;> rfl

/-- Settles O26: each premise decides one of the checks of `exec_setFont`. -/
theorem setFontChecksInOrder : Obligations.SetFontChecksInOrder := by
  intro base size s hbase hsize
  dsimp only
  rw [exec_setFont]
  refine ⟨fun hrange => if_pos (Nat.lt_of_not_le hrange), fun hrange hshort => ?_, fun hrange hlen hmagic => ?_,
    fun hrange hlen hmagic htag => ?_, fun hrange hlen hmagic htag => ?_⟩ <;> rw [if_neg (Nat.not_lt.2 hrange)]
  · exact if_pos hshort
  · rw [if_neg (Nat.not_lt.2 hlen)]
    exact if_pos hmagic
  · rw [if_neg (Nat.not_lt.2 hlen), if_neg (not_not.2 hmagic)]
    exact if_pos (not_or.1 htag)
  · rw [if_neg (Nat.not_lt.2 hlen), if_neg (not_not.2 hmagic), if_neg (by tauto)]
    exact ⟨BitVec.ofNat 32 base, BitVec.ofNat 32 size, Nat.mod_eq_of_lt hbase, Nat.mod_eq_of_lt hsize, rfl⟩

/-! ### One pass of the scan (R274) -/

/-- The zero code that ends the table stands at offset `p` (R273). -/
def tableEnds (s : State) (p : Nat) : Prop := p + 2 ≤ s.fontSize.toNat ∧ fontHalf s p = 0

section
variable {s : State} {c p : Nat} (fuel : Nat)

/-- At a whole record the scan answers it, or goes on after it. -/
theorem lookupLoop_sound (h : recordSound s p) : lookupLoop s c (fuel + 1) p =
    if fontHalf s p = c then .found (glyphAt s p (recordLength s p))
    else lookupLoop s c fuel (p + recordLength s p) := by
  obtain ⟨hhead, hcode, hmin, hfit⟩ := h
  have hlen : ¬ (recordLength s p < 8 ∨ s.fontSize.toNat < p + recordLength s p) := by omega
  rw [lookupLoop]
  dsimp only
  rw [if_neg (by omega), if_neg hcode, if_neg (by omega)]
  exact if_neg hlen

theorem lookupLoop_ends (h : tableEnds s p) : lookupLoop s c (fuel + 1) p = .absent := by
  rw [lookupLoop]
  dsimp only
  rw [if_neg (Nat.not_lt.2 h.1), if_pos h.2]

theorem lookupLoop_broken (hsound : ¬ recordSound s p) (hends : ¬ tableEnds s p) :
    lookupLoop s c (fuel + 1) p = .trunc := by
  rw [lookupLoop]
  dsimp only
  split_ifs with h2 h0 h8 hlen
  · rfl
  · exact absurd ⟨Nat.le_of_not_lt h2, h0⟩ hends
  · rfl
  · rfl
  all_goals
    rw [not_or, Nat.not_lt, Nat.not_lt] at hlen
    exact absurd ⟨Nat.le_of_not_lt h8, h0, hlen.1, hlen.2⟩ hsound

end

/-! ### The scan over the chain of records (R272, R274) -/

/-- The records before index `j` are whole and have other codes than `c`: the scan for `c` goes past them. -/
def scanPasses (s : State) (c j : Nat) : Prop :=
  ∀ i < j, recordSound s (recordOffset s i) ∧ fontHalf s (recordOffset s i) ≠ c

section
variable {s : State} {c j : Nat}

theorem scanPasses_succ : scanPasses s c (j + 1) ↔
    scanPasses s c j ∧ recordSound s (recordOffset s j) ∧ fontHalf s (recordOffset s j) ≠ c :=
  Nat.forall_lt_succ_right

/-- Every record passed is at least 8 bytes long. -/
theorem le_recordOffset (h : scanPasses s c j) : 5 + 8 * j ≤ recordOffset s j := by
  induction j with
  | zero => exact Nat.le_refl 5
  | succ j ih =>
    obtain ⟨hj, ⟨_, _, hmin, _⟩, _⟩ := scanPasses_succ.1 h
    have := ih hj
    rw [recordOffset]
    omega

/-- The scan comes to every record whose predecessors it passes, with fuel left: the records passed lie in the
font. -/
theorem lookupGlyph_eq_loop (h : scanPasses s c j) :
    ∃ fuel, lookupGlyph s c = lookupLoop s c (fuel + 1) (recordOffset s j) := by
  suffices hcount : j ≤ s.fontSize.toNat / 8 ∧
      lookupGlyph s c = lookupLoop s c (s.fontSize.toNat / 8 - j + 1) (recordOffset s j) from ⟨_, hcount.2⟩
  induction j with
  | zero => exact ⟨Nat.zero_le _, rfl⟩
  | succ j ih =>
    obtain ⟨hj, hsound, hcode⟩ := scanPasses_succ.1 h
    obtain ⟨_, hloop⟩ := ih hj
    have hle := le_recordOffset h
    have hfit : recordOffset s (j + 1) ≤ s.fontSize.toNat := hsound.2.2.2
    have hfuel : s.fontSize.toNat / 8 - j = s.fontSize.toNat / 8 - (j + 1) + 1 := by omega
    refine ⟨by omega, ?_⟩
    rw [hloop, lookupLoop_sound _ hsound, if_neg hcode, hfuel, recordOffset]

theorem lookupGlyph_found (h : scanPasses s c j) (hsound : recordSound s (recordOffset s j))
    (hcode : fontHalf s (recordOffset s j) = c) :
    lookupGlyph s c = .found (glyphAt s (recordOffset s j) (recordLength s (recordOffset s j))) := by
  obtain ⟨fuel, hloop⟩ := lookupGlyph_eq_loop h
  rw [hloop, lookupLoop_sound fuel hsound, if_pos hcode]

theorem lookupGlyph_absent (h : scanPasses s c j) (hends : tableEnds s (recordOffset s j)) :
    lookupGlyph s c = .absent := by
  obtain ⟨fuel, hloop⟩ := lookupGlyph_eq_loop h
  rw [hloop, lookupLoop_ends fuel hends]

theorem lookupGlyph_trunc (h : scanPasses s c j) (hsound : ¬ recordSound s (recordOffset s j))
    (hends : ¬ tableEnds s (recordOffset s j)) : lookupGlyph s c = .trunc := by
  obtain ⟨fuel, hloop⟩ := lookupGlyph_eq_loop h
  rw [hloop, lookupLoop_broken fuel hsound hends]

/-- The scan stops: the font is too small for more records than bytes. -/
theorem exists_scan_stop (s : State) (c : Nat) : ∃ j, scanPasses s c j ∧
    ¬ (recordSound s (recordOffset s j) ∧ fontHalf s (recordOffset s j) ≠ c) := by
  by_contra hnone
  push Not at hnone
  have hall : ∀ j, scanPasses s c j := by
    intro j
    induction j with
    | zero => exact fun i hi => absurd hi (Nat.not_lt_zero i)
    | succ j ih => exact scanPasses_succ.2 ⟨ih, hnone j ih⟩
  obtain ⟨_, ⟨hhead, _⟩, _⟩ := scanPasses_succ.1 (hall (s.fontSize.toNat + 1))
  have := le_recordOffset (hall s.fontSize.toNat)
  have := le_recordOffset (hall (s.fontSize.toNat + 1))
  omega

end

/-- Where the scan stops, and why: at a match, at the end of the table, or at a record that runs out of the font. -/
theorem scan_stop_cases (s : State) (c : Nat) : ∃ j, scanPasses s c j ∧
    ((recordSound s (recordOffset s j) ∧ fontHalf s (recordOffset s j) = c) ∨ tableEnds s (recordOffset s j) ∨
      (¬ recordSound s (recordOffset s j) ∧ ¬ tableEnds s (recordOffset s j))) := by
  obtain ⟨j, hj, hstop⟩ := exists_scan_stop s c
  exact ⟨j, hj, by tauto⟩

/-- Settles O47: the scan stops somewhere, and its answer there tells the three ways to stop apart. -/
theorem lookupIsALinearScan : Obligations.LookupIsALinearScan := by
  intro s c _
  dsimp only
  obtain ⟨j, hj, hstop⟩ := scan_stop_cases s c
  refine ⟨fun g => ⟨fun h => ?_, fun ⟨k, hk, hsound, hcode, hg⟩ => hg ▸ lookupGlyph_found hk hsound hcode⟩,
    ⟨fun h => ?_, fun ⟨k, hk, hends⟩ => lookupGlyph_absent hk hends⟩,
    ⟨fun h => ?_, fun ⟨k, hk, hsound, hends⟩ => lookupGlyph_trunc hk hsound hends⟩⟩
  · rcases hstop with ⟨hsound, hcode⟩ | hends | ⟨hsound, hends⟩
    · cases h.symm.trans (lookupGlyph_found hj hsound hcode)
      exact ⟨j, hj, hsound, hcode, rfl⟩
    · cases h.symm.trans (lookupGlyph_absent hj hends)
    · cases h.symm.trans (lookupGlyph_trunc hj hsound hends)
  · rcases hstop with ⟨hsound, hcode⟩ | hends | ⟨hsound, hends⟩
    · cases h.symm.trans (lookupGlyph_found hj hsound hcode)
    · exact ⟨j, hj, hends⟩
    · cases h.symm.trans (lookupGlyph_trunc hj hsound hends)
  · rcases hstop with ⟨hsound, hcode⟩ | hends | ⟨hsound, hends⟩
    · cases h.symm.trans (lookupGlyph_found hj hsound hcode)
    · cases h.symm.trans (lookupGlyph_absent hj hends)
    · exact ⟨j, hj, hsound, hends⟩

end Sys2Proof.Machine
end

section
/-! SUPPORT. Text and kerning (47_glyph.md R276 to R278, R291, R292): the value a kerning sequence holds, the common
checks of the two text commands, the sum of the advances, and the statements about them. -/

namespace Sys2Proof.Machine

/-! ### Kerning (R277) -/

/-- The kerning sequence has ended at position `k`: with the sentinel, or with asset memory. -/
def kernEnds (s : State) (t : TextArgs) (k : Nat) : Prop :=
  s.par.amemSize ≤ t.kern + k ∨ memRead s (t.kern + k) = s.par.kernEnd

/-- The value that the scan of the sequence holds before it looks at position `k`. -/
def kernHeld (s : State) (t : TextArgs) (k : Nat) : Int :=
  if k = 0 then 0 else (memRead s (t.kern + k - 1)).toInt

section
variable {s : State} {t : TextArgs}

theorem kernByte_eq_kernEnd {k : Nat} (h : kernEnds s t k) : kernByte s t k = s.par.kernEnd := by
  unfold kernByte
  split
  · rfl
  · exact h.resolve_left ‹_›

theorem kernByte_eq_memRead {k : Nat} (h : ¬ kernEnds s t k) : kernByte s t k = memRead s (t.kern + k) :=
  if_neg (not_or.1 h).1

/-- The scan goes past values and holds the last of them. -/
theorem kernLoop_values (more : Nat) {k : Nat} (h : ∀ j < k, ¬ kernEnds s t j) :
    kernLoop s t (k + more) 0 0 = kernLoop s t more k (kernHeld s t k) := by
  induction k generalizing more with
  | zero => rw [Nat.zero_add]; rfl
  | succ k ih =>
    obtain ⟨hbefore, hvalue⟩ := Nat.forall_lt_succ_right.1 h
    have hne : memRead s (t.kern + k) ≠ s.par.kernEnd := (not_or.1 hvalue).2
    rw [Nat.add_assoc, Nat.add_comm 1, ih (more + 1) hbefore, kernLoop, kernByte_eq_memRead hvalue, if_neg hne]
    rfl

/-- A sequence that has not ended up to position `i` gives the value there. -/
theorem kernAt_value {i : Nat} (hk : t.haskern = true) (h : ∀ k ≤ i, ¬ kernEnds s t k) :
    kernAt s t i = (memRead s (t.kern + i)).toInt := by
  have hloop := kernLoop_values 0 fun k (hki : k < i + 1) => h k (Nat.le_of_lt_succ hki)
  rw [kernAt, if_pos hk]
  exact hloop

/-- A sequence that ended first at position `k` gives the value held there to every position from `k` on. -/
theorem kernAt_held {i k : Nat} (hk : t.haskern = true) (hki : k ≤ i) (hends : kernEnds s t k)
    (h : ∀ j < k, ¬ kernEnds s t j) : kernAt s t i = kernHeld s t k := by
  have hcount : i + 1 = k + (i - k + 1) := by omega
  rw [kernAt, if_pos hk, hcount, kernLoop_values _ h, kernLoop, if_pos (kernByte_eq_kernEnd hends)]

end

/-- Settles O48: `kernAt_value` and `kernAt_held` are its two cases with kerning on. -/
theorem kerningHoldsLastValue : Obligations.KerningHoldsLastValue := by
  intro s t i
  refine ⟨fun hoff => ?_, kernAt_value, fun k hki hk hends h => kernAt_held hk hki hends h⟩
  rw [kernAt, hoff, if_neg Bool.false_ne_true]

/-! ### The common checks (R291) -/

section
variable {s : State} {t : TextArgs}

theorem textError_noFont (h : s.fontValid = false) : textError s t = some .noFont := if_pos h

theorem textError_assetRange (hfont : s.fontValid = true) (h : s.par.amemSize < t.text + 2 * t.n) :
    textError s t = some .assetRange := by
  rw [textError, if_neg (by simp [hfont]), if_pos ((sliceOutOfRange_iff ..).2 h)]

theorem textError_none (hfont : s.fontValid = true) (h : t.text + 2 * t.n ≤ s.par.amemSize) :
    textError s t = none := by
  rw [textError, if_neg (by simp [hfont]), if_neg (mt (sliceOutOfRange_iff ..).1 (Nat.not_lt.2 h))]

theorem textError_ne_ok {e : ErrCode} (h : textError s t = some e) : e ≠ .ok :=
  fun he => absurd (textError_code h) (by rw [he]; decide)

end

/-! ### How far a text gets (R278, R292, R293) -/

/-- The `m` characters from the start of a text have codes, and `adv` gives their advances. -/
def advancesTo (s : State) (t : TextArgs) (adv : Nat → Int) (m : Nat) : Prop :=
  ∀ i < m, charAt s t i ≠ 0 ∧ advance s t i = some (adv i)

/-- The sum of the advances before position `m`. -/
def advanceSum (adv : Nat → Int) (m : Nat) : Int := ((List.range m).map adv).sum

theorem advanceSum_succ (adv : Nat → Int) (m : Nat) : advanceSum adv (m + 1) = advanceSum adv m + adv m :=
  List.sum_range_succ adv m

section
variable {s : State} {t : TextArgs} {adv : Nat → Int} {m n : Nat}

theorem advancesTo_succ : advancesTo s t adv (m + 1) ↔
    advancesTo s t adv m ∧ charAt s t m ≠ 0 ∧ advance s t m = some (adv m) :=
  Nat.forall_lt_succ_right

/-- A text stops at its end, at a zero code, or at a character whose lookup is truncated. -/
theorem exists_text_stop (s : State) (t : TextArgs) (n : Nat) : ∃ (adv : Nat → Int) (m : Nat), m ≤ n ∧
    advancesTo s t adv m ∧
      ((m = n ∨ charAt s t m = 0) ∨ (m < n ∧ charAt s t m ≠ 0 ∧ advance s t m = none)) := by
  refine ⟨fun i => (advance s t i).getD 0, ?_⟩
  induction n with
  | zero => exact ⟨0, Nat.le_refl 0, fun i hi => absurd hi (Nat.not_lt_zero i), .inl (.inl rfl)⟩
  | succ n ih =>
    obtain ⟨m, hm, hadv, (rfl | hzero) | ⟨hlt, hcode, hnone⟩⟩ := ih
    · by_cases hcode : charAt s t m = 0
      · exact ⟨m, Nat.le_succ m, hadv, .inl (.inr hcode)⟩
      · cases hcut : advance s t m with
        | none => exact ⟨m, Nat.le_succ m, hadv, .inr ⟨Nat.lt_succ_self m, hcode, hcut⟩⟩
        | some a =>
          have hnext := advancesTo_succ.2 ⟨hadv, hcode, by rw [hcut]; rfl⟩
          exact ⟨m + 1, Nat.le_refl _, hnext, .inl (.inl rfl)⟩
    · exact ⟨m, Nat.le_succ_of_le hm, hadv, .inl (.inr hzero)⟩
    · exact ⟨m, Nat.le_succ_of_le hm, hadv, .inr ⟨Nat.lt_succ_of_lt hlt, hcode, hnone⟩⟩

/-! ### MEASURE_TEXT (R292) -/

theorem measureLoop_advances (more : Nat) (h : advancesTo s t adv m) :
    measureLoop s t (m + more) 0 0 = measureLoop s t more m (advanceSum adv m) := by
  induction m generalizing more with
  | zero => rw [Nat.zero_add]; rfl
  | succ m ih =>
    obtain ⟨hbefore, hcode, hadv⟩ := advancesTo_succ.1 h
    rw [Nat.add_assoc, Nat.add_comm 1, ih (more + 1) hbefore, measureLoop, if_neg hcode, hadv, advanceSum_succ]

theorem measureLoop_end (hm : m ≤ n) (h : advancesTo s t adv m) (hend : m = n ∨ charAt s t m = 0) :
    measureLoop s t n 0 0 = some (advanceSum adv m) := by
  obtain ⟨more, rfl⟩ := Nat.exists_eq_add_of_le hm
  rw [measureLoop_advances more h]
  cases more with
  | zero => rfl
  | succ more => exact if_pos (hend.resolve_left (by omega))

theorem measureLoop_cut (hm : m < n) (h : advancesTo s t adv m) (hcode : charAt s t m ≠ 0)
    (hcut : advance s t m = none) : measureLoop s t n 0 0 = none := by
  obtain ⟨more, rfl⟩ := Nat.exists_eq_add_of_lt hm
  rw [Nat.add_assoc, measureLoop_advances (more + 1) h, measureLoop, if_neg hcode, hcut]

end

section
variable {haskern : Bool} {text n kern : Nat} {s : State}

theorem exec_measureText_refused {e : ErrCode} (h : textError s ⟨false, haskern, text, n, kern⟩ = some e) :
    exec (.measureText haskern text n kern) s = .next (s.afterFailure e) := by
  simp only [exec, execMeasureText, h, failEarly_eq e s (textError_ne_ok h)]

theorem exec_measureText_end {adv : Nat → Int} {m : Nat} (h : textError s ⟨false, haskern, text, n, kern⟩ = none)
    (hm : m ≤ n) (hadv : advancesTo s ⟨false, haskern, text, n, kern⟩ adv m)
    (hend : m = n ∨ charAt s ⟨false, haskern, text, n, kern⟩ m = 0) :
    exec (.measureText haskern text n kern) s =
      .next { s with res := BitVec.ofInt 32 (advanceSum adv m), lastErr := 0#8 } := by
  simp only [exec, execMeasureText, h, measureLoop_end hm hadv hend, complete_eq]

theorem exec_measureText_cut {adv : Nat → Int} {m : Nat} (h : textError s ⟨false, haskern, text, n, kern⟩ = none)
    (hm : m < n) (hadv : advancesTo s ⟨false, haskern, text, n, kern⟩ adv m)
    (hcode : charAt s ⟨false, haskern, text, n, kern⟩ m ≠ 0)
    (hcut : advance s ⟨false, haskern, text, n, kern⟩ m = none) :
    exec (.measureText haskern text n kern) s = .next (s.afterFailure .glyphTrunc) := by
  simp only [exec, execMeasureText, h, measureLoop_cut hm hadv hcode hcut,
    failEarly_eq .glyphTrunc s (by decide)]

end

theorem decode_measureText {p : Packet} (h : packetOp p = 0x20) : decode p =
    .ok (.measureText (p.w0.getLsbD 9) (p.w3.toNat + p.w4.toNat * 2 ^ 16) p.w5.toNat
      (p.w6.toNat + p.w7.toNat * 2 ^ 16)) := by
  simp only [decode, h, packetFlag, readU16, readU32, Nat.reduceAdd]

/-- Settles O49: the two checks, then the two ways the sum ends. -/
theorem measureTextSumsAdvances : Obligations.MeasureTextSumsAdvances := by
  refine ⟨fun _ => decode_measureText, fun haskern text n kern m adv s => ?_⟩
  refine ⟨fun hfont => exec_measureText_refused (textError_noFont hfont),
    fun hfont hrange => exec_measureText_refused (textError_assetRange hfont hrange), fun hfont hrange hm hadv => ?_⟩
  have hchecks := textError_none (t := ⟨false, haskern, text, n, kern⟩) hfont hrange
  exact ⟨fun hend => exec_measureText_end hchecks hm hadv hend,
    fun hlt hcode hcut => exec_measureText_cut hchecks hlt hadv hcode hcut⟩

end Sys2Proof.Machine
end

section
/-! SUPPORT. DRAW_TEXT without wrapping (47_glyph.md R293, R297): each character at the caret that the advances before
it give, how the command ends, the agreement with MEASURE_TEXT, and the statements about them. -/

namespace Sys2Proof.Machine

/-! ### One character (R278, R293) -/

/-- A sub-operation inside a bracket is its events alone (20_memory.md R70). -/
theorem State.paint_eq_emit {s : State} (evs : List Event) (h : s.nest ≠ 0) : s.paint evs = s.emit evs := by
  simp [State.paint, State.emit, State.enter, State.leave, h]

theorem State.emit_nil (s : State) : s.emit [] = s := by
  simp [State.emit]

theorem State.emit_emit (s : State) (es fs : List Event) : (s.emit es).emit fs = s.emit (es ++ fs) := by
  simp [State.emit]

theorem sameFont_refl (s : State) : SameFont s s := .of_sameButScroll (sameButScroll_refl s)

theorem sameFont_enter_emit (s : State) (evs : List Event) : SameFont s (s.enter.emit evs) := ⟨rfl, rfl, rfl, rfl⟩

section
variable {s : State} {t : TextArgs} {i : Nat}

theorem advance_trunc (h : lookupGlyph s (charAt s t i) = .trunc) : advance s t i = none := by
  rw [advance, h]

theorem advance_absent (h : lookupGlyph s (charAt s t i) = .absent) : advance s t i = some 0 := by
  rw [advance, h]

theorem advance_found {g : Glyph} (h : lookupGlyph s (charAt s t i) = .found g) :
    advance s t i = some (g.adv + kernAt s t i) := by
  rw [advance, h]

theorem lookupGlyph_of_advance_none (h : advance s t i = none) : lookupGlyph s (charAt s t i) = .trunc := by
  cases hg : lookupGlyph s (charAt s t i) with
  | trunc => rfl
  | absent => cases h.symm.trans (advance_absent hg)
  | found g => cases h.symm.trans (advance_found hg)

end

/-- What a character draws does not depend on the bracket and the events before. -/
theorem charEvents_enter_emit (s : State) (evs : List Event) (t : TextArgs) (i : Nat) (cx cy : Int) :
    charEvents (s.enter.emit evs) t i cx cy = charEvents s t i cx cy := by
  have hfont := sameFont_enter_emit s evs
  unfold charEvents
  rw [hfont.charAt t t rfl, hfont.lookupGlyph]
  cases lookupGlyph s (charAt s t i) with
  | found g => exact glyphEvents_redo s _ _ _ g cx cy
  | absent => rfl
  | trunc => rfl

section
variable {t : TextArgs} {i : Nat} {r : TextRun}

theorem wrapStep_off (h : r.st.wrap = false) : wrapStep t i r = .place r := if_pos h

/-- A character whose lookup is not truncated is drawn at the caret, which moves by its advance. -/
theorem textLoop_character (more : Nat) {a : Int} (hwrap : r.st.wrap = false) (hnest : r.st.nest ≠ 0)
    (hcode : charAt r.st t i ≠ 0) (hadv : advance r.st t i = some a) :
    textLoop t (more + 1) i r =
      textLoop t more (i + 1) ⟨r.st.emit (charEvents r.st t i r.cx r.cy), r.cx + a, r.cy⟩ := by
  rw [textLoop, if_neg hcode, wrapStep_off hwrap]
  dsimp only
  cases hg : lookupGlyph r.st (charAt r.st t i) with
  | trunc => cases hadv.symm.trans (advance_trunc hg)
  | absent =>
    cases hadv.symm.trans (advance_absent hg)
    simp only [charEvents, hg, State.emit_nil, Int.add_zero]
  | found g =>
    cases hadv.symm.trans (advance_found hg)
    simp only [charEvents, hg, placeGlyph, State.paint_eq_emit _ hnest, Int.add_assoc]

theorem textLoop_zeroCode (more : Nat) (hcode : charAt r.st t i = 0) : textLoop t (more + 1) i r = (r, true) :=
  if_pos hcode

theorem textLoop_truncated (more : Nat) (hwrap : r.st.wrap = false) (hcode : charAt r.st t i ≠ 0)
    (hcut : advance r.st t i = none) : textLoop t (more + 1) i r = (r, false) := by
  rw [textLoop, if_neg hcode, wrapStep_off hwrap]
  simp only [lookupGlyph_of_advance_none hcut]

end

/-! ### The text up to a position -/

/-- What the characters before position `m` draw, the first at `(x, y)`. -/
def textEvents (s : State) (t : TextArgs) (adv : Nat → Int) (x y : Int) (m : Nat) : List Event :=
  (List.range m).flatMap fun i => charEvents s t i (x + advanceSum adv i) y

theorem textEvents_succ (s : State) (t : TextArgs) (adv : Nat → Int) (x y : Int) (m : Nat) :
    textEvents s t adv x y (m + 1) = textEvents s t adv x y m ++ charEvents s t m (x + advanceSum adv m) y := by
  simp [textEvents, List.range_succ]

/-- The text inside its bracket, before position `m`. -/
def textRunAt (s : State) (t : TextArgs) (adv : Nat → Int) (x y : Int) (m : Nat) : TextRun :=
  ⟨s.enter.emit (textEvents s t adv x y m), x + advanceSum adv m, y⟩

section
variable {s : State} {t : TextArgs} {adv : Nat → Int} {x y : Int} {m n : Nat}

theorem charAt_textRunAt (i : Nat) : charAt (textRunAt s t adv x y m).st t i = charAt s t i :=
  (sameFont_enter_emit s _).charAt t t rfl i

theorem advance_textRunAt (i : Nat) : advance (textRunAt s t adv x y m).st t i = advance s t i :=
  (sameFont_enter_emit s _).advance t t rfl rfl rfl i

theorem textLoop_advances (more : Nat) (hwrap : s.wrap = false) (h : advancesTo s t adv m) :
    textLoop t (m + more) 0 ⟨s.enter, x, y⟩ = textLoop t more m (textRunAt s t adv x y m) := by
  induction m generalizing more with
  | zero =>
    have hstart : textRunAt s t adv x y 0 = ⟨s.enter, x, y⟩ := by
      simp [textRunAt, textEvents, advanceSum, State.emit_nil]
    rw [Nat.zero_add, hstart]
  | succ m ih =>
    obtain ⟨hbefore, hcode, hadv⟩ := advancesTo_succ.1 h
    rw [← charAt_textRunAt (adv := adv) (x := x) (y := y) (m := m)] at hcode
    rw [← advance_textRunAt (adv := adv) (x := x) (y := y) (m := m)] at hadv
    rw [Nat.add_assoc, Nat.add_comm 1, ih (more + 1) hbefore,
      textLoop_character more hwrap (Nat.succ_ne_zero _) hcode hadv]
    simp only [textRunAt, charEvents_enter_emit, State.emit_emit, textEvents_succ, advanceSum_succ, Int.add_assoc]

theorem textLoop_end (hwrap : s.wrap = false) (hm : m ≤ n) (h : advancesTo s t adv m)
    (hend : m = n ∨ charAt s t m = 0) :
    textLoop t n 0 ⟨s.enter, x, y⟩ = (textRunAt s t adv x y m, true) := by
  obtain ⟨more, rfl⟩ := Nat.exists_eq_add_of_le hm
  rw [textLoop_advances more hwrap h]
  cases more with
  | zero => rfl
  | succ more => exact textLoop_zeroCode more ((charAt_textRunAt m).trans (hend.resolve_left (by omega)))

theorem textLoop_cut (hwrap : s.wrap = false) (hm : m < n) (h : advancesTo s t adv m) (hcode : charAt s t m ≠ 0)
    (hcut : advance s t m = none) :
    textLoop t n 0 ⟨s.enter, x, y⟩ = (textRunAt s t adv x y m, false) := by
  obtain ⟨more, rfl⟩ := Nat.exists_eq_add_of_lt hm
  rw [Nat.add_assoc, textLoop_advances (more + 1) hwrap h]
  rw [← charAt_textRunAt (adv := adv) (x := x) (y := y) (m := m)] at hcode
  exact textLoop_truncated more hwrap hcode ((advance_textRunAt m).trans hcut)

end

/-! ### How the command ends -/

section
variable {erase haskern : Bool} {x y : Int} {text n kern : Nat} {s : State}

theorem exec_drawText_refused {e : ErrCode} (h : textError s ⟨erase, haskern, text, n, kern⟩ = some e) :
    exec (.drawText erase haskern x y text n kern) s = .next (s.afterFailure e) := by
  simp only [exec, execDrawText, h, failEarly_eq e s (textError_ne_ok h)]

/-- A text that came to its end stores its caret and closes its bracket. -/
theorem exec_drawText_done {r : TextRun} (h : textError s ⟨erase, haskern, text, n, kern⟩ = none)
    (hloop : textLoop ⟨erase, haskern, text, n, kern⟩ n 0 ⟨s.enter, x, y⟩ = (r, true)) :
    exec (.drawText erase haskern x y text n kern) s = .next { (storeCaret r).leave with lastErr := 0#8 } := by
  simp only [exec, execDrawText, h, hloop, if_true, complete_eq]

/-- A text that was cut off stores its caret too; the counter goes to 0 and REL is emitted (60_exceptions.md R342). -/
theorem exec_drawText_cut {r : TextRun} (h : textError s ⟨erase, haskern, text, n, kern⟩ = none)
    (hloop : textLoop ⟨erase, haskern, text, n, kern⟩ n 0 ⟨s.enter, x, y⟩ = (r, false)) :
    exec (.drawText erase haskern x y text n kern) s = .next
      ({ storeCaret r with nest := 0, events := r.st.events ++ [Event.rel] }.afterFailure .glyphTrunc) := by
  simp only [exec, execDrawText, h, hloop, if_neg Bool.false_ne_true,
    failLate_eq .glyphTrunc (storeCaret r) (by decide)]
  rfl

end

/-- Settles O50: the two checks, then `textLoop_end` or `textLoop_cut` gives the state inside the bracket. -/
theorem drawTextWithoutWrap : Obligations.DrawTextWithoutWrap := by
  intro erase haskern x y text n kern m adv s
  refine ⟨fun hfont => exec_drawText_refused (textError_noFont hfont),
    fun hfont hrange => exec_drawText_refused (textError_assetRange hfont hrange),
    fun hnest hwrap hfont hrange hm hadv => ?_⟩
  have hchecks := textError_none (t := ⟨erase, haskern, text, n, kern⟩) hfont hrange
  refine ⟨fun hend => ?_, fun hlt hcode hcut => ?_⟩
  · rw [exec_drawText_done hchecks (textLoop_end hwrap hm hadv hend)]
    simp [textRunAt, textEvents, advanceSum, storeCaret, State.enter, State.emit, State.leave, hnest]
  · rw [exec_drawText_cut hchecks (textLoop_cut hwrap hlt hadv hcode hcut)]
    simp [textRunAt, textEvents, advanceSum, storeCaret, State.enter, State.emit, State.afterFailure, hnest]

/-! ### DRAW_TEXT and MEASURE_TEXT (R297) -/

/-- The advances do not depend on the painting mode. -/
theorem advancesTo_erase {s : State} {haskern : Bool} {text n kern m : Nat} {adv : Nat → Int} (a b : Bool)
    (h : advancesTo s ⟨a, haskern, text, n, kern⟩ adv m) : advancesTo s ⟨b, haskern, text, n, kern⟩ adv m := by
  intro i hi
  have hsame := (sameFont_refl s).advance ⟨a, haskern, text, n, kern⟩ ⟨b, haskern, text, n, kern⟩ rfl rfl rfl i
  obtain ⟨hcode, hadv⟩ := h i hi
  exact ⟨hcode, hsame.trans hadv⟩

/-- The low half of a number's 32-bit form is its 16-bit form. -/
theorem setWidth_ofInt_32 (v : Int) : (BitVec.ofInt 32 v).setWidth 16 = BitVec.ofInt 16 v := by
  apply BitVec.eq_of_toNat_eq
  rw [BitVec.toNat_setWidth, BitVec.toNat_ofInt, BitVec.toNat_ofInt]
  omega

theorem afterFailure_lastErr_ne_zero (s : State) {e : ErrCode} (h : e ≠ .ok) : (s.afterFailure e).lastErr ≠ 0 := by
  show BitVec.ofNat 8 (errNumber e) ≠ 0
  cases e with
  | ok => exact absurd rfl h
  | _ => decide

/-- Settles O54: past the checks both commands stop at the same character, and the caret has moved by the sum of the
advances before it. -/
theorem measureAgreesWithDraw : Obligations.MeasureAgreesWithDraw := by
  intro erase haskern x y text n kern s t u hwrap ht _ hu huerr
  cases hchecks : textError s ⟨false, haskern, text, n, kern⟩ with
  | some e =>
    cases hu.symm.trans (exec_measureText_refused hchecks)
    exact absurd huerr (afterFailure_lastErr_ne_zero s (textError_ne_ok hchecks))
  | none =>
    obtain ⟨adv, m, hm, hadv, hend | ⟨hlt, hcode, hcut⟩⟩ := exists_text_stop s ⟨false, haskern, text, n, kern⟩ n
    · cases hu.symm.trans (exec_measureText_end hchecks hm hadv hend)
      have hpassed : textError s ⟨erase, haskern, text, n, kern⟩ = none := hchecks
      have hdraw := exec_drawText_done (x := x) (y := y) hpassed
        (textLoop_end hwrap hm (advancesTo_erase false erase hadv) hend)
      cases ht.symm.trans hdraw
      refine ⟨?_, rfl⟩
      show BitVec.ofInt 16 (x + advanceSum adv m) - BitVec.ofInt 16 x = _
      rw [setWidth_ofInt_32, BitVec.ofInt_add, BitVec.add_comm, BitVec.add_sub_cancel]
    · cases hu.symm.trans (exec_measureText_cut hchecks hlt hadv hcode hcut)
      exact absurd huerr (afterFailure_lastErr_ne_zero s (by decide))

end Sys2Proof.Machine
end

section
/-! SUPPORT. Line wrap (47_glyph.md R293 to R296): the line break, the break test, what DRAW_TEXT with any wrap setting
keeps, and the statements about them. -/

namespace Sys2Proof.Machine

/-! ### The line break (R295, R296) -/

/-- The scroll offset after the canvas moved by `d` rows. -/
def scrollAfter (s : State) (d : Int) : Nat := ((s.scroll + d) % s.par.devH).toNat

theorem scrollBy_eq (s : State) (d : Int) : s.scrollBy d = { s with
    scroll := scrollAfter s d
    events := s.events ++ (if scrollAfter s d = s.scroll then [] else [.scrollCmd (scrollAfter s d)]) } := by
  rcases scrollBy_cases s d with ⟨hsame, e⟩ | ⟨hmoved, e⟩ <;> rw [e]
  · simp [scrollAfter, hsame]
  · simp [scrollAfter, hmoved]

/-- The band that an overflow by `ov` exposes, filled at the new offset. -/
def exposedBand (s : State) (ov : Int) : List Event :=
  fill { s with scroll := scrollAfter s ov } s.bg 0 (s.marginB.toInt - ov) (s.logW - 1) (s.marginB.toInt - 1)

section
variable (r : TextRun)

/-- The top of the line below. -/
def lineBelow : Int := r.cy + r.st.fontLh.toNat + r.st.lineGap.toInt

/-- A line break scrolls the canvas: its new cell passes the bottom margin (R295). -/
def breakScrolls : Prop :=
  r.st.wrapScroll = true ∧ r.st.orient = .portrait ∧ r.st.marginB.toInt < lineBelow r + r.st.fontLh.toNat

theorem newline_still (h : ¬ breakScrolls r) : newline r = ⟨r.st, r.st.marginL.toInt, lineBelow r⟩ := if_neg h

theorem newline_scrolls (h : breakScrolls r) :
    newline r = wrapScrollStep ⟨r.st, r.st.marginL.toInt, lineBelow r⟩ := if_pos h

theorem newline_cx : (newline r).cx = r.st.marginL.toInt := by
  by_cases h : breakScrolls r
  · rw [newline_scrolls r h]; rfl
  · rw [newline_still r h]

/-- The new cell ends at the bottom margin. -/
theorem wrapScrollStep_cy : (wrapScrollStep r).cy + r.st.fontLh.toNat = r.st.marginB.toInt := by
  simp only [wrapScrollStep]
  omega

/-- Inside a bracket the scroll step is the new offset, its event and the band. -/
theorem wrapScrollStep_st (hnest : r.st.nest ≠ 0) :
    (wrapScrollStep r).st =
      let ov := r.cy + r.st.fontLh.toNat - r.st.marginB.toInt
      { r.st with
        scroll := scrollAfter r.st ov
        events := r.st.events ++ (if scrollAfter r.st ov = r.st.scroll then [] else [.scrollCmd (scrollAfter r.st ov)])
          ++ exposedBand r.st ov } := by
  have hscrolled : (r.st.scrollBy (r.cy + r.st.fontLh.toNat - r.st.marginB.toInt)).nest ≠ 0 := by
    rw [scrollBy_eq]
    exact hnest
  rw [wrapScrollStep]
  dsimp only
  rw [State.paint_eq_emit _ hscrolled, scrollBy_eq]
  rfl

end

theorem wrapStep_newlineCode {t : TextArgs} {i : Nat} {r : TextRun} (hwrap : r.st.wrap = true)
    (hcode : charAt r.st t i = 0x0A) : wrapStep t i r = .skip (newline r) := by
  rw [wrapStep, if_neg (by simp [hwrap]), if_pos hcode]

/-- Settles O53: a line break that does not scroll is `newline_still`, one that does is `wrapScrollStep`. -/
theorem lineBreakScrolls : Obligations.LineBreakScrolls := by
  intro r
  refine ⟨fun t i => wrapStep_newlineCode, newline_cx r, fun hstill => ?_, fun hscroll horient hov hnest => ?_⟩
  · have hno : ¬ breakScrolls r := by
      rintro ⟨hscroll, horient, hbelow⟩
      rcases hstill with h | h | h
      · exact absurd (hscroll.symm.trans h) (by decide)
      · exact h horient
      · rw [lineBelow] at hbelow
        omega
    rw [newline_still r hno]
    exact ⟨rfl, rfl⟩
  · have hbelow : r.st.marginB.toInt < lineBelow r + r.st.fontLh.toNat := by
      rw [lineBelow]
      omega
    rw [newline_scrolls r ⟨hscroll, horient, hbelow⟩]
    exact ⟨wrapScrollStep_cy _, wrapScrollStep_st _ (Nat.one_le_iff_ne_zero.1 hnest)⟩

/-! ### The break test (R294) -/

theorem isSeparator_iff (c : Nat) : isSeparator c = true ↔ c = 0x20 ∨ c = 0x0A := by
  simp [isSeparator]

/-- A word starts at position `i`. -/
def wordStarts (s : State) (t : TextArgs) (i : Nat) : Prop :=
  i = 0 ∨ charAt s t (i - 1) = 0x20 ∨ charAt s t (i - 1) = 0x0A

/-- A word stops before position `j`. -/
def wordStops (s : State) (t : TextArgs) (j : Nat) : Prop :=
  charAt s t j = 0 ∨ charAt s t j = 0x20 ∨ charAt s t j = 0x0A

section
variable {s : State} {t : TextArgs} {i : Nat}

theorem needAt_word (hstart : wordStarts s t i) (hspace : charAt s t i ≠ 0x20) :
    needAt s t i = wordLoop s t (t.n - i) i 0 := by
  simp only [wordStarts, ← isSeparator_iff] at hstart
  exact if_pos ⟨hstart, hspace⟩

theorem needAt_single (h : ¬ wordStarts s t i ∨ charAt s t i = 0x20) : needAt s t i = advance s t i := by
  simp only [wordStarts, ← isSeparator_iff] at h
  exact if_neg fun ⟨hstart, hspace⟩ => h.elim (· hstart) hspace

theorem wordLoop_letter (more : Nat) {w a : Int} (hstop : ¬ wordStops s t i) (hadv : advance s t i = some a) :
    wordLoop s t (more + 1) i w = wordLoop s t more (i + 1) (w + a) := by
  rw [wordStops, ← isSeparator_iff] at hstop
  rw [wordLoop, if_neg hstop, hadv]

theorem wordLoop_stop (more : Nat) (w : Int) (hstop : wordStops s t i) : wordLoop s t more i w = some w := by
  cases more with
  | zero => rfl
  | succ more =>
    rw [wordStops, ← isSeparator_iff] at hstop
    exact if_pos hstop

/-- The letters of a word add up their advances. -/
theorem wordLoop_letters (more : Nat) {d : Nat} {adv : Nat → Int}
    (h : ∀ j, i ≤ j → j < i + d → ¬ wordStops s t j ∧ advance s t j = some (adv j)) :
    wordLoop s t (d + more) i 0 = wordLoop s t more (i + d) ((List.range' i d).map adv).sum := by
  induction d generalizing more with
  | zero => rw [Nat.zero_add]; rfl
  | succ d ih =>
    obtain ⟨hstop, hadv⟩ := h (i + d) (Nat.le_add_right i d) (by omega)
    rw [Nat.add_assoc, Nat.add_comm 1, ih (more + 1) fun j hj hlt => h j hj (by omega),
      wordLoop_letter more hstop hadv, List.range'_1_concat, List.map_append, List.sum_append]
    simp [Nat.add_assoc]

/-- `need` of the character that starts the word from `i` to `m`. -/
theorem needAt_wordStart {m : Nat} {adv : Nat → Int} (hstart : wordStarts s t i) (him : i < m) (hm : m ≤ t.n)
    (h : ∀ j, i ≤ j → j < m → ¬ wordStops s t j ∧ advance s t j = some (adv j)) (hend : m = t.n ∨ wordStops s t m) :
    needAt s t i = some ((List.range' i (m - i)).map adv).sum := by
  have hspace : charAt s t i ≠ 0x20 := fun hc => (h i (Nat.le_refl i) him).1 (.inr (.inl hc))
  have hcount : t.n - i = (m - i) + (t.n - m) := by omega
  have hm' : i + (m - i) = m := by omega
  rw [needAt_word hstart hspace, hcount, wordLoop_letters _ (by rwa [hm']), hm']
  rcases hend with rfl | hstop
  · rw [Nat.sub_self]; rfl
  · exact wordLoop_stop _ _ hstop

end

/-- The wrap step by the width it tests. -/
theorem wrapStep_needed {t : TextArgs} {i : Nat} {r : TextRun} {w : Int} (hwrap : r.st.wrap = true)
    (hcode : charAt r.st t i ≠ 0x0A) (hneed : needAt r.st t i = some w) : wrapStep t i r =
      .place (if r.st.marginR.toInt < r.cx + w ∧ r.st.marginL.toInt < r.cx then newline r else r) := by
  rw [wrapStep, if_neg (by simp [hwrap]), if_neg hcode, hneed, apply_ite Placed.place]

/-- Settles O52: the width tested is `needAt_wordStart` or `needAt_single`. -/
theorem wordBreakTest : Obligations.WordBreakTest := by
  intro t i m adv r hwrap _ hcode him hm hadv
  refine ⟨fun hstart hletters hend => ?_, fun hsingle => ?_⟩
  · exact wrapStep_needed hwrap hcode
      (needAt_wordStart hstart him hm (fun j hij hjm => ⟨hletters j hij hjm, hadv j hij hjm⟩) hend)
  · exact wrapStep_needed hwrap hcode ((needAt_single hsingle).trans (hadv i (Nat.le_refl i) him))

/-! ### A text without truncated lookups (R293, R296) -/

/-- No character of the text has a truncated lookup. -/
def lookupsWhole (s : State) (t : TextArgs) : Prop := ∀ i < t.n, lookupGlyph s (charAt s t i) ≠ .trunc

theorem SameFont.lookupsWhole {s u : State} {t : TextArgs} (h : SameFont s u) (hw : Machine.lookupsWhole s t) :
    Machine.lookupsWhole u t := by
  intro i hi
  rw [h.charAt t t rfl, h.lookupGlyph]
  exact hw i hi

section
variable {s : State} {t : TextArgs}

theorem advance_ne_none {i : Nat} (hw : lookupsWhole s t) (hi : i < t.n) : advance s t i ≠ none :=
  fun h => hw i hi (lookupGlyph_of_advance_none h)

theorem wordLoop_ne_none (hw : lookupsWhole s t) (more : Nat) :
    ∀ (j : Nat) (w : Int), j + more ≤ t.n → wordLoop s t more j w ≠ none := by
  induction more with
  | zero => exact fun j w _ => Option.some_ne_none w
  | succ more ih =>
    intro j w hj
    by_cases hstop : wordStops s t j
    · rw [wordLoop_stop _ _ hstop]
      exact Option.some_ne_none w
    · obtain ⟨a, ha⟩ := Option.ne_none_iff_exists'.1 (advance_ne_none hw (by omega : j < t.n))
      rw [wordLoop_letter more hstop ha]
      exact ih (j + 1) (w + a) (by omega)

theorem needAt_ne_none {i : Nat} (hw : lookupsWhole s t) (hi : i < t.n) : needAt s t i ≠ none := by
  by_cases hword : wordStarts s t i ∧ charAt s t i ≠ 0x20
  · rw [needAt_word hword.1 hword.2]
    exact wordLoop_ne_none hw _ _ _ (by omega)
  · rw [needAt_single (by tauto)]
    exact advance_ne_none hw hi

end

/-- A text can scroll the canvas (R296). -/
def wrapScrolls (s : State) : Prop := s.wrap = true ∧ s.wrapScroll = true ∧ s.orient = .portrait

/-- `r` is a run of a text that started in `s`: scroll offset and events alone have changed, and the offset only where
a text can scroll. -/
structure TextRun.From (s : State) (r : TextRun) : Prop where
  frame : sameButScroll s r.st
  scroll : wrapScrolls s ∨ r.st.scroll = s.scroll

section
variable {s : State} {t : TextArgs} {i : Nat} {r : TextRun}

theorem TextRun.From.glyph (h : r.From s) (g : Glyph) : (placeGlyph t i g r).From s :=
  ⟨sameButScroll_trans h.frame (placeGlyph_frame t i g r), h.scroll⟩

theorem TextRun.From.newline (h : r.From s) (hwrap : r.st.wrap = true) : (newline r).From s := by
  refine ⟨sameButScroll_trans h.frame (newline_frame r), ?_⟩
  by_cases hscrolls : breakScrolls r
  · obtain ⟨hscroll, horient, _⟩ := hscrolls
    rw [h.frame] at hwrap hscroll horient
    exact .inl ⟨hwrap, hscroll, horient⟩
  · rw [newline_still r hscrolls]
    exact h.scroll

/-- The wrap step before a character of the text goes on. -/
theorem TextRun.From.wrapStep (h : r.From s) (hw : lookupsWhole s t) (hi : i < t.n) :
    ∃ r' : TextRun, r'.From s ∧ (wrapStep t i r = .skip r' ∨ wrapStep t i r = .place r') := by
  cases hwrap : r.st.wrap with
  | false => exact ⟨r, h, .inr (wrapStep_off hwrap)⟩
  | true =>
    by_cases hcode : charAt r.st t i = 0x0A
    · exact ⟨_, h.newline hwrap, .inl (wrapStep_newlineCode hwrap hcode)⟩
    · obtain ⟨w, hneed⟩ := Option.ne_none_iff_exists'.1
        (needAt_ne_none ((SameFont.of_sameButScroll h.frame).lookupsWhole hw) hi)
      refine ⟨_, ?_, .inr (wrapStep_needed hwrap hcode hneed)⟩
      split
      · exact h.newline hwrap
      · exact h

/-- The text comes to its end. -/
theorem textLoop_completes (hw : lookupsWhole s t) (more : Nat) : ∀ (i : Nat) (r : TextRun), r.From s →
    i + more ≤ t.n → ∃ r' : TextRun, r'.From s ∧ textLoop t more i r = (r', true) := by
  induction more with
  | zero => exact fun i r h _ => ⟨r, h, rfl⟩
  | succ more ih =>
    intro i r h hi
    by_cases hcode : charAt r.st t i = 0
    · exact ⟨r, h, textLoop_zeroCode more hcode⟩
    · obtain ⟨r', h', hstep | hstep⟩ := h.wrapStep hw (by omega : i < t.n) <;>
        rw [textLoop, if_neg hcode, hstep] <;> dsimp only
      · exact ih (i + 1) r' h' (by omega)
      · cases hg : lookupGlyph r'.st (charAt r'.st t i) with
        | trunc => exact absurd hg ((SameFont.of_sameButScroll h'.frame).lookupsWhole hw i (by omega))
        | absent => exact ih (i + 1) r' h' (by omega)
        | found g => exact ih (i + 1) _ (h'.glyph g) (by omega)

end

/-- Settles O51: the loop comes to its end in a run that keeps the frame, and its events are appended. -/
theorem drawTextCompletes : Obligations.DrawTextCompletes := by
  intro erase haskern x y text n kern s hnest hfont hrange hw
  have hpassed := textError_none (t := ⟨erase, haskern, text, n, kern⟩) hfont hrange
  have hstart : TextRun.From s.enter ⟨s.enter, x, y⟩ := ⟨sameButScroll_refl _, .inr rfl⟩
  have hsame : SameFont s s.enter := ⟨rfl, rfl, rfl, rfl⟩
  have hwhole : lookupsWhole s.enter ⟨erase, haskern, text, n, kern⟩ := hsame.lookupsWhole hw
  obtain ⟨⟨st, cx, cy⟩, ⟨hframe, hscroll⟩, hloop⟩ :=
    textLoop_completes hwhole n 0 ⟨s.enter, x, y⟩ hstart (Nat.le_of_eq (Nat.zero_add n))
  have hpainted := textLoop_paintedTo (Nat.succ_ne_zero _) ⟨erase, haskern, text, n, kern⟩ n 0 ⟨s.enter, x, y⟩
    (State.PaintedTo.refl s.enter)
  rw [hloop] at hpainted
  obtain ⟨body, _, hevents⟩ := hpainted.events
  refine ⟨st.scroll, BitVec.ofInt 16 cx, BitVec.ofInt 16 cy, body, ?_, hscroll⟩
  rw [exec_drawText_done hpassed hloop]
  dsimp only at hframe hevents
  rw [hframe]
  simp [storeCaret, State.enter, State.leave, hevents, hnest]

end Sys2Proof.Machine
end

section
/-! SUPPORT. The cursor of the glyph decoder (47_glyph.md R283): its position as one number, what a run does to it, and
the statement about it. -/

namespace Sys2Proof.Machine

/-- A cursor on the bitmap, or at the start of the line below the last. -/
structure GlyphCursor.On (d : GlyphDraw) (c : GlyphCursor) : Prop where
  u_nonneg : 0 ≤ c.u
  u_lt : c.u < glyphExt d
  v_nonneg : 0 ≤ c.v
  v_le : c.v ≤ glyphLim d
  past : c.v = glyphLim d → c.u = 0

/-- The number of texels before the cursor. -/
def cursorPos (d : GlyphDraw) (c : GlyphCursor) : Int := c.v * glyphExt d + c.u

/-- The cursor with `pos` texels before it, cut at the last line. -/
def cursorAt (d : GlyphDraw) (pos : Int) : GlyphCursor :=
  if pos < glyphLim d * glyphExt d then ⟨pos % glyphExt d, pos / glyphExt d⟩ else ⟨0, glyphLim d⟩

section
variable {d : GlyphDraw} {c : GlyphCursor}

theorem GlyphCursor.On.ext_pos (h : c.On d) : 0 < glyphExt d := lt_of_le_of_lt h.u_nonneg h.u_lt

theorem cursorPos_lt (h : c.On d) (hv : c.v < glyphLim d) : cursorPos d c < glyphLim d * glyphExt d := by
  have hline : (c.v + 1) * glyphExt d ≤ glyphLim d * glyphExt d := Int.mul_le_mul_of_nonneg_right hv h.ext_pos.le
  have hu := h.u_lt
  rw [Int.add_mul, Int.one_mul] at hline
  rw [cursorPos]
  omega

theorem cursorAt_past {n : Int} (h : c.On d) (hv : glyphLim d ≤ c.v) (hn : 0 ≤ n) :
    cursorAt d (cursorPos d c + n) = c := by
  have hvlim : c.v = glyphLim d := Int.le_antisymm h.v_le hv
  have hu := h.past hvlim
  have hpos : ¬ cursorPos d c + n < glyphLim d * glyphExt d := by
    rw [cursorPos, hvlim, hu]
    omega
  rw [cursorAt, if_neg hpos, ← hvlim, ← hu]

/-- A cursor is the one at its own position. -/
theorem cursorAt_cursorPos (h : c.On d) : cursorAt d (cursorPos d c) = c := by
  rcases lt_or_ge c.v (glyphLim d) with hv | hv
  · rw [cursorAt, if_pos (cursorPos_lt h hv), cursorPos, Int.mul_add_emod_self_right,
      Int.mul_add_ediv_right _ _ h.ext_pos.ne', Int.emod_eq_of_lt h.u_nonneg h.u_lt,
      Int.ediv_eq_zero_of_lt h.u_nonneg h.u_lt, Int.add_zero]
  · simpa using cursorAt_past h hv (Int.le_refl 0)

/-- A move along the line counts its texels. -/
theorem cursorPos_move (n : Int) : cursorPos d (cursorMove d c n) = cursorPos d c + n := by
  rw [cursorMove]
  split
  · simp only [cursorPos, Int.add_mul, Int.one_mul]
    omega
  · simp only [cursorPos, Int.add_assoc]

/-- A move no further than the line keeps the cursor on the bitmap. -/
theorem GlyphCursor.On.move {n : Int} (h : c.On d) (hv : c.v < glyphLim d) (hn : 0 ≤ n)
    (hfit : c.u + n ≤ glyphExt d) : (cursorMove d c n).On d := by
  have hext := h.ext_pos
  obtain ⟨hu, hu', hv', _, _⟩ := h
  rw [cursorMove]
  split
  · exact ⟨Int.le_refl 0, hext, by dsimp only; omega, by dsimp only; omega, fun _ => rfl⟩
  · exact ⟨by dsimp only; omega, by dsimp only; omega, hv', by dsimp only; omega, fun hc => absurd hc hv.ne⟩

end

/-! ### A run -/

section
variable (s : State) {d : GlyphDraw} {on : Bool} {ln : Int} {c : GlyphCursor}

theorem glyphRun_done (fuel : Nat) (h : ln ≤ 0 ∨ glyphLim d ≤ c.v) : glyphRun s d on fuel ln c = ([], c) := by
  cases fuel with
  | zero => rfl
  | succ fuel => exact if_neg (by omega)

/-- The length of the first piece of a run: to the end of the run or of the line. -/
def runPiece (d : GlyphDraw) (ln : Int) (c : GlyphCursor) : Int := min ln (glyphExt d - c.u)

theorem glyphRun_piece (fuel : Nat) (hln : 0 < ln) (hv : c.v < glyphLim d) : glyphRun s d on (fuel + 1) ln c =
    ((if on then glyphSeg s d c.u (runPiece d ln c) c.v else [])
        ++ (glyphRun s d on fuel (ln - runPiece d ln c) (cursorMove d c (runPiece d ln c))).1,
      (glyphRun s d on fuel (ln - runPiece d ln c) (cursorMove d c (runPiece d ln c))).2) :=
  if_pos ⟨hln, hv⟩

/-- A piece takes at least one texel of the run, and no more than the run and the line have. -/
theorem runPiece_bounds (h : c.On d) (hln : 0 < ln) :
    1 ≤ runPiece d ln c ∧ runPiece d ln c ≤ ln ∧ c.u + runPiece d ln c ≤ glyphExt d := by
  have hu := h.u_lt
  rw [runPiece]
  omega

/-- A run moves the cursor by its length, wrapping over the lines and cut at the last (R283). -/
theorem glyphRun_cursor (fuel : Nat) : ∀ (ln : Int) (c : GlyphCursor), c.On d → 0 ≤ ln → ln ≤ fuel →
    (glyphRun s d on fuel ln c).2 = cursorAt d (cursorPos d c + ln) := by
  induction fuel with
  | zero =>
    intro ln c h hln hfuel
    obtain rfl : ln = 0 := by omega
    rw [Int.add_zero, cursorAt_cursorPos h]
    rfl
  | succ fuel ih =>
    intro ln c h hln hfuel
    rcases lt_or_ge c.v (glyphLim d) with hv | hv
    · rcases hln.eq_or_lt with rfl | hpos
      · rw [glyphRun_done s _ (.inl (Int.le_refl 0)), Int.add_zero, cursorAt_cursorPos h]
      · obtain ⟨hone, hle, hfit⟩ := runPiece_bounds h hpos
        rw [glyphRun_piece s fuel hpos hv, ih _ _ (h.move hv (by omega) hfit) (by omega) (by omega), cursorPos_move]
        congr 1
        omega
    · rw [glyphRun_done s _ (.inr hv), cursorAt_past h hv hln]

/-- A run needs no more fuel than its length. -/
theorem glyphRun_fuel (extra fuel : Nat) : ∀ (ln : Int) (c : GlyphCursor), c.On d → ln ≤ fuel →
    glyphRun s d on (fuel + extra) ln c = glyphRun s d on fuel ln c := by
  induction fuel with
  | zero =>
    intro ln c h hfuel
    rw [glyphRun_done s _ (.inl (by omega)), glyphRun_done s _ (.inl (by omega))]
  | succ fuel ih =>
    intro ln c h hfuel
    by_cases hgo : 0 < ln ∧ c.v < glyphLim d
    · obtain ⟨hone, _, hfit⟩ := runPiece_bounds h hgo.1
      rw [Nat.add_right_comm, glyphRun_piece s _ hgo.1 hgo.2, glyphRun_piece s _ hgo.1 hgo.2,
        ih _ _ (h.move hgo.2 (by omega) hfit) (by omega)]
    · rw [glyphRun_done s _ (by omega), glyphRun_done s _ (by omega)]

theorem glyphRun_off (fuel : Nat) : ∀ (ln : Int) (c : GlyphCursor), (glyphRun s d false fuel ln c).1 = [] := by
  induction fuel with
  | zero => exact fun ln c => rfl
  | succ fuel ih =>
    intro ln c
    by_cases hgo : 0 < ln ∧ c.v < glyphLim d
    · rw [glyphRun_piece s fuel hgo.1 hgo.2, ih]
      rfl
    · rw [glyphRun_done s _ (by omega)]

end

/-- Settles O55: the three lemmas about a run, whose fuel is its length. -/
theorem glyphRunMovesLinearly : Obligations.GlyphRunMovesLinearly := by
  intro s d on ln c hu hext hv hlim
  have hon : c.On d := ⟨hu, hext, hv, hlim.le, fun h => absurd h hlim.ne⟩
  exact ⟨glyphRun_cursor s ln ln c hon (Int.natCast_nonneg ln) (Int.le_refl _), glyphRun_off s ln ln c,
    fun extra => glyphRun_fuel s extra ln ln c hon (Int.le_refl _)⟩

end Sys2Proof.Machine
end

section
/-! SUPPORT. The failures (60_exceptions.md R342, R346): what is kept of a command that ends with a code, and the checks
of the image header with theirs (48_image.md R313). -/

namespace Sys2Proof.Machine

/-! ### A failed command (60_exceptions.md R342, R346) -/

/-- The end of a command with a code is written as `State.afterFailure` says. -/
theorem endCommand_eq_afterFailure (s : State) {e : ErrCode} (he : e ≠ .ok) : s.endCommand e = s.afterFailure e :=
  Host.Outcome.next.inj (failEarly_eq e s he)

/-- An image that was cut off has emitted its rows between what stood there and REL. -/
theorem imageCut_events (s : State) (evs : List Event) : ∃ done,
    ({ s.enter.paint evs with nest := 0 }.emit [.rel]).events = s.events ++ done ++ [.rel] := by
  rw [State.paint_enter]
  exact ⟨(if s.nest = 0 then [.acq] else []) ++ evs, by simp [State.emit]⟩

/-- A text that was cut off has appended its events to what stood there, and REL is the last. -/
theorem textCut_events (s : State) (t : TextArgs) (n : Nat) (x y : Int) : ∃ done,
    ({ storeCaret (textLoop t n 0 ⟨s.enter, x, y⟩).1 with nest := 0 }.emit [.rel]).events =
      s.events ++ done ++ [.rel] := by
  obtain ⟨_, _, body, _, hbody⟩ :=
    textLoop_paintedTo (Nat.succ_ne_zero _) t n 0 ⟨s.enter, x, y⟩ (State.PaintedTo.refl s.enter)
  exact ⟨(if s.nest = 0 then [.acq] else []) ++ body, by simp [storeCaret, State.emit, hbody]⟩

/-- Settles O15: of the ends of a command with a code, `failed` is that of phase 1 and the two others are the late
ones. -/
theorem failurePhases : Obligations.FailurePhases := by
  intro i s t h hne
  obtain ⟨e, u, rfl, hend⟩ := exec_next h
  have he : e ≠ .ok := by
    rintro rfl
    exact hne rfl
  cases hend with
  | failed code =>
    left
    rw [endCommand_lastErr_toNat, endCommand_eq_afterFailure _ he]
    rfl
  | imageCut x y base size evs => exact .inr ⟨.inr ⟨rfl, rfl⟩, rfl, imageCut_events s evs⟩
  | textCut erase haskern x y text n kern => exact .inr ⟨.inl ⟨rfl, rfl⟩, rfl, textCut_events s _ n x y⟩
  | _ => exact absurd rfl he

/-! ### The header of an image (48_image.md R313) -/

/-- The two checks of the slice come first (checks 1 and 2). -/
theorem imageError_outOfRange {s : State} {base size : Nat} (h : s.par.amemSize < base + size) :
    imageError s base size = some .assetRange := by
  simp only [imageError, sliceOutOfRange_iff, if_pos h]

theorem imageError_short {s : State} {base size : Nat} (hrange : base + size ≤ s.par.amemSize) (h : size < 12) :
    imageError s base size = some .imgTrunc := by
  simp only [imageError, sliceOutOfRange_iff, if_neg (Nat.not_lt.2 hrange), if_pos h]

theorem badExtent_iff (v : Nat) : badExtent v = true ↔ ¬ (1 ≤ v ∧ v < 0x8000) := by
  simp only [badExtent, Bool.or_eq_true, decide_eq_true_eq]
  omega

/-- The five checks that read the header of a slice that holds one (checks 3 to 7). -/
theorem imageError_of_slice {s : State} {base size : Nat} (hrange : base + size ≤ s.par.amemSize) (hlen : 12 ≤ size) :
    imageError s base size =
      if memRead s base ≠ s.par.imageMagic then some .imgMagic
      else if (imageHeader s base).clen = 0 then some .imgComplen
      else if (imageHeader s base).win = 0 then some .imgWindow
      else if ¬ ((1 ≤ (imageHeader s base).w ∧ (imageHeader s base).w < 0x8000) ∧
          1 ≤ (imageHeader s base).h ∧ (imageHeader s base).h < 0x8000) then some .imgSize
      else if (imageHeader s base).olen ≠ 2 * (imageHeader s base).w * (imageHeader s base).h then some .imgOutlen
      else none := by
  simp only [imageError, sliceOutOfRange_iff, if_neg (Nat.not_lt.2 hrange), if_neg (Nat.not_lt.2 hlen),
    Bool.or_eq_true, badExtent_iff, ← not_and_or]

/-- An image whose header passes the checks has rows and columns, a window, and two bytes a pixel. -/
theorem imageError_none {s : State} {base size : Nat} (h : imageError s base size = none) :
    1 ≤ (imageHeader s base).win ∧ 1 ≤ (imageHeader s base).w ∧ 1 ≤ (imageHeader s base).h ∧
      (imageHeader s base).olen = 2 * (imageHeader s base).w * (imageHeader s base).h := by
  rcases Nat.lt_or_ge s.par.amemSize (base + size) with hrange | hrange
  · rw [imageError_outOfRange hrange] at h
    cases h
  · rcases Nat.lt_or_ge size 12 with hlen | hlen
    · rw [imageError_short hrange hlen] at h
      cases h
    · rw [imageError_of_slice hrange hlen] at h
      split_ifs at h with hmagic hclen hwin hsize holen
      obtain ⟨⟨hw, _⟩, hh, _⟩ := hsize
      exact ⟨Nat.pos_of_ne_zero hwin, hw, hh, not_not.1 holen⟩

theorem exec_drawImage_refused {x y : Int} {base size : Nat} {s : State} {e : ErrCode}
    (h : imageError s base size = some e) : exec (.drawImage x y base size) s = .next (s.afterFailure e) := by
  have he : e ≠ .ok := by
    rintro rfl
    exact absurd (imageError_code h) (by decide)
  simp only [exec, execDrawImage, h, failEarly_eq e s he]

/-- Settles O56: each premise decides one of the checks of `imageError`, and the first that fails gives the code. -/
theorem imageHeaderChecksInOrder : Obligations.ImageHeaderChecksInOrder := by
  intro x y base size s
  refine ⟨fun hrange => exec_drawImage_refused (imageError_outOfRange hrange),
    fun hrange hshort => exec_drawImage_refused (imageError_short hrange hshort), ?_⟩
  refine ⟨fun ⟨hrange, hlen⟩ hmagic => ?_, fun ⟨hrange, hlen⟩ hmagic hclen => ?_,
    fun ⟨hrange, hlen⟩ hmagic hclen hwin => ?_, fun ⟨hrange, hlen⟩ hmagic hclen hwin hsize => ?_,
    fun ⟨hrange, hlen⟩ hmagic hclen hwin hsize holen => ?_⟩ <;>
    refine exec_drawImage_refused ?_ <;> rw [imageError_of_slice hrange hlen]
  · rw [if_pos hmagic]
  · rw [if_neg (not_not.2 hmagic), if_pos hclen]
  · rw [if_neg (not_not.2 hmagic), if_neg hclen, if_pos hwin]
  · rw [if_neg (not_not.2 hmagic), if_neg hclen, if_neg hwin, if_pos hsize]
  · rw [if_neg (not_not.2 hmagic), if_neg hclen, if_neg hwin, if_neg (not_not.2 hsize), if_pos holen]

end Sys2Proof.Machine
end

section
/-! SUPPORT. The decode loop of an image (48_image.md R318 to R324): the window, the passes of the loop and what their
tokens keep. -/

namespace Sys2Proof.Machine

/-! ### The window (R319, R320) -/

/-- The place in the window `off` positions back from `wpos`. -/
def windowSlot (a : ImageArgs) (off wpos : Nat) : Nat := (((wpos : Int) - off) % a.hd.win).toNat

theorem windowAt_eq (a : ImageArgs) (off : Nat) (d : ImageDec) :
    windowAt a off d = d.window.getD (windowSlot a off d.wpos) 0#8 := rfl

section
variable {a : ImageArgs} {wpos : Nat}

theorem windowSlot_zero (h : wpos < a.hd.win) : windowSlot a 0 wpos = wpos := by
  simp only [windowSlot, Int.natCast_zero, Int.sub_zero, ← Int.natCast_emod, Int.toNat_natCast, Nat.mod_eq_of_lt h]

/-- The write moves the place of each older byte one offset back. -/
theorem windowSlot_succ (off : Nat) : windowSlot a (off + 1) ((wpos + 1) % a.hd.win) = windowSlot a off wpos := by
  have hcong : (((wpos + 1 : Nat) : Int) % a.hd.win - (off + 1 : Nat)) % a.hd.win =
      ((wpos + 1 : Nat) - (off + 1 : Nat)) % a.hd.win := (Int.mod_modEq _ _).sub_right _
  rw [windowSlot, windowSlot, Int.natCast_emod, hcong]
  push_cast
  ring_nf

/-- Within the window only offset 0 names the slot about to be written. -/
theorem windowSlot_ne {off : Nat} (hpos : 1 ≤ off) (hoff : off < a.hd.win) : windowSlot a off wpos ≠ wpos := by
  intro h
  have hslot : ((wpos : Int) - off) % a.hd.win = wpos := by
    have hnonneg := Int.emod_nonneg ((wpos : Int) - off) (by omega : (a.hd.win : Int) ≠ 0)
    unfold windowSlot at h
    omega
  have hdvd : (a.hd.win : Int) ∣ wpos - (wpos - off) := Int.dvd_sub_self_of_emod_eq hslot
  have hle := Int.le_of_dvd (by omega) hdvd
  omega

end

section
variable (s : State) {a : ImageArgs} {d : ImageDec} (b : Byte)

theorem windowAt_deliver_one (hlen : d.window.length = a.hd.win) (hpos : d.wpos < a.hd.win) :
    windowAt a 1 (deliver s a b d) = b := by
  obtain ⟨_, _, hwindow, hwpos⟩ := deliver_spec s a b d
  rw [windowAt_eq, hwindow, hwpos, windowSlot_succ, windowSlot_zero hpos]
  simp [hlen, hpos]

theorem windowAt_deliver_succ {off : Nat} (hpos : 1 ≤ off) (hoff : off < a.hd.win) :
    windowAt a (off + 1) (deliver s a b d) = windowAt a off d := by
  obtain ⟨_, _, hwindow, hwpos⟩ := deliver_spec s a b d
  rw [windowAt_eq, windowAt_eq, hwindow, hwpos, windowSlot_succ]
  simp [(windowSlot_ne (a := a) (wpos := d.wpos) hpos hoff).symm]

end

/-! ### The passes of the loop (R320, R321) -/

section
variable {s : State} {a : ImageArgs}

theorem imageLoop_end (fuel : Nat) {d : ImageDec} (h : a.hd.olen ≤ d.count) : imageLoop s a fuel d = (d, true) := by
  cases fuel with
  | zero => rfl
  | succ fuel => exact if_pos h

theorem imageLoop_failed (fuel : Nat) {d : ImageDec} (h : d.count < a.hd.olen) (htoken : imageToken s a d = none) :
    imageLoop s a (fuel + 1) d = (d, false) := by
  rw [imageLoop, if_neg (Nat.not_le.2 h), htoken]

theorem imageLoop_token (fuel : Nat) {d d' : ImageDec} (h : d.count < a.hd.olen) (htoken : imageToken s a d = some d') :
    imageLoop s a (fuel + 1) d = imageLoop s a fuel d' := by
  rw [imageLoop, if_neg (Nat.not_le.2 h), htoken]

/-- A run of the loop that has passes enough: it stops before the declared length exactly at the token that fails, and
what its tokens keep holds at its end. -/
theorem imageLoop_induct {P : ImageDec → Prop}
    (htoken : ∀ d d', P d → d.count < a.hd.olen → imageToken s a d = some d' → P d') (fuel : Nat) :
    ∀ d, P d → a.hd.olen ≤ d.count + fuel → ∃ d', P d' ∧
      ((a.hd.olen ≤ d'.count ∧ ∀ extra, imageLoop s a (fuel + extra) d = (d', true)) ∨
        (d'.count < a.hd.olen ∧ imageToken s a d' = none ∧
          ∀ extra, imageLoop s a (fuel + extra) d = (d', false))) := by
  induction fuel with
  | zero => exact fun d hd hfuel => ⟨d, hd, .inl ⟨hfuel, fun extra => imageLoop_end _ hfuel⟩⟩
  | succ fuel ih =>
    intro d hd hfuel
    rcases Nat.lt_or_ge d.count a.hd.olen with hlt | hge
    · cases hnext : imageToken s a d with
      | none =>
        refine ⟨d, hd, .inr ⟨hlt, hnext, fun extra => ?_⟩⟩
        rw [Nat.add_right_comm, imageLoop_failed _ hlt hnext]
      | some d' =>
        have hcount := imageToken_count s a d d' hlt hnext
        obtain ⟨e, he, hends⟩ := ih d' (htoken d d' hd hlt hnext) (by omega)
        refine ⟨e, he, ?_⟩
        simpa only [Nat.add_right_comm fuel 1, imageLoop_token _ hlt hnext] using hends
    · exact ⟨d, hd, .inl ⟨hge, fun extra => imageLoop_end _ hge⟩⟩

/-- No more than `olen` passes are made (R321). -/
theorem imageLoop_extra (d : ImageDec) (extra : Nat) :
    imageLoop s a (a.hd.olen + extra) d = imageLoop s a a.hd.olen d := by
  obtain ⟨_, _, ⟨_, hrun⟩ | ⟨_, _, hrun⟩⟩ :=
    imageLoop_induct (s := s) (a := a) (P := fun _ => True) (fun _ _ _ _ _ => trivial) a.hd.olen d trivial
      (Nat.le_add_left _ _) <;>
    exact (hrun extra).trans (hrun 0).symm

end

/-- Settles O59: a write moves the place of every older byte one offset back; the rest are the equation of the copy, its
count, and the fuel of the loop. -/
theorem windowNamesRecentBytes : Obligations.WindowNamesRecentBytes := by
  intro s a d hlen hpos
  refine ⟨fun b => ⟨windowAt_deliver_one s b hlen hpos, fun off => windowAt_deliver_succ s b⟩,
    fun off cnt => rfl, fun off cnt hcount => ?_, imageLoop_extra d⟩
  rw [(copyLoop_spec s a off cnt d).2]
  omega

end Sys2Proof.Machine
end

section
/-! SUPPORT. The rows of an image (48_image.md R325): what clip and shift leave of a row that is wholly visible, and the
order of its pixels in each orientation. -/

namespace Sys2Proof.Machine

/-! ### A rectangle that is wholly visible (43_bounds.md R183, R184) -/

section
variable {s : State}

/-- Without a scroll offset the band is the whole device. -/
theorem scrollBand_unscrolled (h : s.scroll = 0) : scrollBand s = (0, (s.par.devH : Int) - 1) := by
  unfold scrollBand
  split
  · rfl
  · split
    · simp [h]
    · rw [if_neg (by omega)]

theorem scrollShift_unscrolled (h : s.scroll = 0) (y : Int) : scrollShift s y = y := if_neg (by omega)

theorem rectNorm_eq_self {r : Rect} (hx : r.x1 ≤ r.x2) (hy : r.y1 ≤ r.y2) : rectNorm r = r := by
  simp only [rectNorm, Int.min_eq_left hx, Int.min_eq_left hy, Int.max_eq_right hx, Int.max_eq_right hy]

/-- The corners of the transformed rectangle are on the device. -/
theorem transformToDevice_onDevice {r : Rect} (hx1 : 0 ≤ r.x1) (hx : r.x1 ≤ r.x2) (hx2 : r.x2 < s.logW)
    (hy1 : 0 ≤ r.y1) (hy : r.y1 ≤ r.y2) (hy2 : r.y2 < s.logH) :
    0 ≤ (transformToDevice s r).x1 ∧ (transformToDevice s r).x2 < s.par.devW ∧
      0 ≤ (transformToDevice s r).y1 ∧ (transformToDevice s r).y2 < s.par.devH := by
  have hfirst := (transformPoint_onDevice_iff s r.x1 r.y1).1 (by omega)
  have hlast := (transformPoint_onDevice_iff s r.x2 r.y2).1 (by omega)
  simp only [transformToDevice, rectNorm]
  omega

/-- A rectangle on the logical raster is visible whole where nothing is scrolled. -/
theorem toDevice_unscrolled (h : s.scroll = 0) {r : Rect} (hx1 : 0 ≤ r.x1) (hx : r.x1 ≤ r.x2) (hx2 : r.x2 < s.logW)
    (hy1 : 0 ≤ r.y1) (hy : r.y1 ≤ r.y2) (hy2 : r.y2 < s.logH) : toDevice s r = some (transformToDevice s r) := by
  have hdevice := transformToDevice_onDevice hx1 hx hx2 hy1 hy hy2
  have hordered := transformToDevice_ordered s r
  rw [toDevice, rectNorm_eq_self hx hy]
  apply clipToVisible_eq_self <;> simp only [State.Visible, scrollBand_unscrolled h] <;> omega

end

/-! ### The pixels of a row (R325) -/

section
variable (s : State) (x : Int) (row : List Half)

/-- A part of one physical row as wide as the image row. -/
theorem rowPart_oneRow {x1 x2 : Int} (y : Int) (h : x2 - x1 + 1 = row.length) : rowPart s x row x1 y x2 y y =
    .region x1.toNat y.toNat x2.toNat y.toNat :: (List.range row.length).map fun j =>
      .pix (row.getD ((transformPointInv s (x1 + j) y).1 - x).toNat 0#16) := by
  rw [rowPart, h, show (y - y + 1).toNat = 1 by omega]
  simp [partPixels, ← List.map_eq_flatMap, Function.comp_def]

/-- A part of one physical column as high as the image row is wide. -/
theorem rowPart_oneColumn {y1 y2 : Int} (x1 : Int) (h : y2 - y1 + 1 = row.length) : rowPart s x row x1 y1 x1 y2 y1 =
    .region x1.toNat y1.toNat x1.toNat y2.toNat :: (List.range row.length).map fun k =>
      .pix (row.getD ((transformPointInv s x1 (y1 + k)).1 - x).toNat 0#16) := by
  rw [rowPart, h, show (x1 - x1 + 1).toNat = 1 by omega]
  simp [partPixels, ← List.map_eq_flatMap, Function.comp_def]

variable {row}

theorem pixels_inOrder {index : Nat → Nat} (h : ∀ j < row.length, index j = j) :
    (List.range row.length).map (fun j => Event.pix (row.getD (index j) 0#16)) = row.map .pix := by
  refine List.ext_getElem (by simp) fun j hj _ => ?_
  rw [List.length_map, List.length_range] at hj
  simp [h j hj, hj]

theorem pixels_reversed {index : Nat → Nat} (h : ∀ j < row.length, index j = row.length - 1 - j) :
    (List.range row.length).map (fun j => Event.pix (row.getD (index j) 0#16)) = row.reverse.map .pix := by
  refine List.ext_getElem (by simp) fun j hj _ => ?_
  rw [List.length_map, List.length_range] at hj
  have hlast : row.length - 1 - j < row.length := by omega
  simp [h j hj, hlast]

end

/-- A row that is visible whole is one part, from the first corner of its transformed rectangle on. -/
theorem emitRow_unscrolled {s : State} {x ly : Int} {row : List Half} (h : s.scroll = 0) (hrow : 1 ≤ row.length)
    (hx : 0 ≤ x) (hx2 : x + row.length ≤ s.logW) (hy : 0 ≤ ly) (hy2 : ly < s.logH) :
    ∃ b, b = transformToDevice s ⟨x, ly, x + row.length - 1, ly⟩ ∧
      emitRow s x ly row = rowPart s x row b.x1 b.y1 b.x2 b.y2 b.y1 := by
  have hvisible : toDevice s ⟨x, ly, x + row.length - 1, ly⟩ =
      some (transformToDevice s ⟨x, ly, x + row.length - 1, ly⟩) :=
    toDevice_unscrolled h hx (by dsimp only; omega) (by dsimp only; omega) hy (Int.le_refl _) hy2
  refine ⟨_, rfl, ?_⟩
  rw [emitRow, hvisible]
  simp only [scrollShift_unscrolled h, if_pos (transformToDevice_ordered s _).2]

/-- Settles O60: a row is one part, a row of the device in the portrait orientations and a column in the others, and the
inverse map gives the place of each of its pixels. -/
theorem imageRowFollowsOrientation : Obligations.ImageRowFollowsOrientation := by
  intro s x ly row _ hscroll hne hx hx2 hy hy2
  have hrow : 1 ≤ row.length := List.length_pos_iff.2 hne
  obtain ⟨b, hb, hemit⟩ := emitRow_unscrolled hscroll hrow hx hx2 hy hy2
  dsimp only
  rw [hemit]
  cases ho : s.orient with
  | portrait =>
    obtain rfl : b = ⟨x, ly, x + row.length - 1, ly⟩ := by
      rw [hb]
      simp only [transformToDevice, rectNorm, transformPoint, ho, Rect.mk.injEq]
      omega
    rw [rowPart_oneRow s x row _ (by dsimp only; omega), pixels_inOrder]
    intro j hj
    simp only [transformPointInv, ho]
    omega
  | landscape =>
    obtain rfl : b = ⟨s.par.devW - 1 - ly, x, s.par.devW - 1 - ly, x + row.length - 1⟩ := by
      rw [hb]
      simp only [transformToDevice, rectNorm, transformPoint, ho, Rect.mk.injEq]
      omega
    rw [rowPart_oneColumn s x row _ (by dsimp only; omega), pixels_inOrder]
    intro j hj
    simp only [transformPointInv, ho]
    omega
  | portraitFlip =>
    obtain rfl : b = ⟨s.par.devW - x - row.length, s.par.devH - 1 - ly, s.par.devW - 1 - x, s.par.devH - 1 - ly⟩ := by
      rw [hb]
      simp only [transformToDevice, rectNorm, transformPoint, ho, Rect.mk.injEq]
      omega
    rw [rowPart_oneRow s x row _ (by dsimp only; omega), pixels_reversed]
    intro j hj
    simp only [transformPointInv, ho]
    omega
  | landscapeFlip =>
    obtain rfl : b = ⟨ly, s.par.devH - x - row.length, ly, s.par.devH - 1 - x⟩ := by
      rw [hb]
      simp only [transformToDevice, rectNorm, transformPoint, ho, Rect.mk.injEq]
      omega
    rw [rowPart_oneColumn s x row _ (by dsimp only; omega), pixels_reversed]
    intro j hj
    simp only [transformPointInv, ho]
    omega

end Sys2Proof.Machine
end

section
/-! SUPPORT. A whole decode (48_image.md R312, R317 to R323): the rows that the bytes delivered so far make, and how
DRAW_IMAGE ends. -/

namespace Sys2Proof.Machine

/-! ### The rows drawn so far (R319) -/

theorem imageRows_concat (s : State) (x y : Int) (rows : List (List Half)) (row : List Half) :
    imageRows s x y (rows ++ [row]) = imageRows s x y rows ++ emitRow s x (y + rows.length) row := by
  have hfirst : ∀ k ∈ List.range rows.length, emitRow s x (y + (k : Int)) ((rows ++ [row]).getD k []) =
      emitRow s x (y + (k : Int)) (rows.getD k []) := fun k hk => by
    rw [List.getD_append _ _ _ _ (List.mem_range.1 hk)]
  have hlast : (rows ++ [row]).getD rows.length [] = row := by simp
  rw [imageRows, List.length_append, List.length_singleton, List.range_succ, List.flatMap_append,
    List.flatMap_congr hfirst, List.flatMap_singleton, hlast]
  rfl

/-- The decoder has formed the pixels `ps`: the whole rows among them are drawn, the rest wait for their row to fill. -/
structure ImageDec.Drawn (s : State) (a : ImageArgs) (ps : List Half) (rows : List (List Half)) (d : ImageDec) :
    Prop where
  pixels : rows.flatten ++ d.rowbuf = ps
  whole : ∀ row ∈ rows, row.length = a.hd.w
  waiting : d.rowbuf.length < a.hd.w
  row : d.row = rows.length
  out : d.out = imageRows s a.x a.y rows

/-- The pixel that byte `b` completes, if it is the second of two. -/
def pixelOf (b : Byte) (d : ImageDec) : List Half := if d.count % 2 = 1 then [d.hi ++ b] else []

section
variable {s : State} {a : ImageArgs} {ps : List Half} {rows : List (List Half)} {d : ImageDec}

theorem drawn_imageStart (base size : Nat) (hw : 1 ≤ a.hd.w) : (imageStart base size a.hd).Drawn s a [] [] where
  pixels := rfl
  whole := by simp
  waiting := hw
  row := rfl
  out := rfl

theorem ImageDec.Drawn.rowPush (h : d.Drawn s a ps rows) (p : Half) :
    ∃ rows', (rowPush s a p d).Drawn s a (ps ++ [p]) rows' := by
  obtain ⟨hpixels, hwhole, hwaiting, hrow, hout⟩ := h
  by_cases hfull : (d.rowbuf ++ [p]).length = a.hd.w
  · have hpush : Machine.rowPush s a p d = { d with
        rowbuf := [], row := d.row + 1, out := d.out ++ emitRow s a.x (a.y + d.row) (d.rowbuf ++ [p]) } := if_pos hfull
    rw [hpush]
    refine ⟨rows ++ [d.rowbuf ++ [p]], by simp [← hpixels], ?_, Nat.zero_lt_of_lt hwaiting, by simp [hrow], ?_⟩
    · exact List.forall_mem_append.2 ⟨hwhole, List.forall_mem_singleton.2 hfull⟩
    · rw [imageRows_concat, hout, hrow]
  · have hpush : Machine.rowPush s a p d = { d with rowbuf := d.rowbuf ++ [p] } := if_neg hfull
    rw [List.length_append, List.length_singleton] at hfull
    rw [hpush]
    refine ⟨rows, by simp [← hpixels], hwhole, ?_, hrow, hout⟩
    simp only [List.length_append, List.length_singleton]
    omega

/-- A byte delivered adds the pixel it completes. -/
theorem ImageDec.Drawn.deliver (h : d.Drawn s a ps rows) (b : Byte) :
    ∃ rows', (deliver s a b d).Drawn s a (ps ++ pixelOf b d) rows' := by
  have hwindow : (windowPush a b d).Drawn s a ps rows := ⟨h.pixels, h.whole, h.waiting, h.row, h.out⟩
  rcases Nat.mod_two_eq_zero_or_one d.count with heven | hodd
  · have hdeliver : Machine.deliver s a b d = { windowPush a b d with hi := b } :=
      if_pos (by simp only [windowPush]; omega)
    rw [hdeliver, pixelOf, if_neg (by omega), List.append_nil]
    exact ⟨rows, h.pixels, h.whole, h.waiting, h.row, h.out⟩
  · have hdeliver : Machine.deliver s a b d = Machine.rowPush s a (d.hi ++ b) (windowPush a b d) :=
      if_neg (by simp only [windowPush]; omega)
    rw [hdeliver, pixelOf, if_pos hodd]
    exact hwindow.rowPush _

theorem deliver_hi (b : Byte) (h : d.count % 2 = 0) : (deliver s a b d).hi = b := by
  have hdeliver : deliver s a b d = { windowPush a b d with hi := b } := if_pos (by simp only [windowPush]; omega)
  rw [hdeliver]

theorem ImageDec.Drawn.length_pixels (h : d.Drawn s a ps rows) :
    ps.length = rows.length * a.hd.w + d.rowbuf.length := by
  have hsum := List.sum_eq_card_nsmul (rows.map List.length) a.hd.w (by simpa using h.whole)
  rw [← h.pixels, List.length_append, List.length_flatten, hsum, List.length_map, smul_eq_mul]

/-- The whole rows are as many as the pixels fill. -/
theorem ImageDec.Drawn.length_rows (h : d.Drawn s a ps rows) : rows.length = ps.length / a.hd.w := by
  rw [h.length_pixels, Nat.mul_comm, Nat.mul_add_div (Nat.zero_lt_of_lt h.waiting), Nat.div_eq_of_lt h.waiting,
    Nat.add_zero]

/-! ### What a whole decode keeps -/

/-- What the delivery of a byte keeps, a token keeps, wherever the reader stands. -/
theorem imageToken_induct {P : ImageDec → Prop} (hdeliver : ∀ b d, P d → d.count < a.hd.olen → P (deliver s a b d))
    (hreader : ∀ d br, P d → P { d with br := br }) {d' : ImageDec} (h : P d) (hcount : d.count < a.hd.olen)
    (htoken : imageToken s a d = some d') : P d' := by
  have hcopy : ∀ (off cnt : Nat) (e : ImageDec), P e → P (copyLoop s a off cnt e) := by
    intro off cnt
    induction cnt with
    | zero => exact fun _ he => he
    | succ cnt ih =>
      intro e he
      unfold copyLoop
      split
      · exact he
      · next hlt => exact ih _ (hdeliver _ _ he (Nat.lt_of_not_le hlt))
  unfold imageToken at htoken
  dsimp only at htoken
  split at htoken
  · cases htoken
    exact hdeliver _ _ (hreader d _ h) hcount
  · split at htoken
    · cases htoken
    · cases htoken
      exact hcopy _ _ _ (hreader d _ h)

/-- A token fails only by an offset larger than the window (R322). -/
theorem imageToken_eq_none (h : imageToken s a d = none) : ∃ br, a.hd.win < (readNumber s br).1 - 1 := by
  unfold imageToken at h
  dsimp only at h
  split at h
  · cases h
  · split at h
    · next hoff => exact ⟨_, hoff⟩
    · cases h

/-- No more bytes are delivered than declared, and two make a pixel. -/
def ImageDec.Sound (s : State) (a : ImageArgs) (d : ImageDec) : Prop :=
  d.count ≤ a.hd.olen ∧ ∃ ps rows, d.Drawn s a ps rows ∧ ps.length = d.count / 2

theorem ImageDec.Sound.deliver (h : d.Sound s a) (hcount : d.count < a.hd.olen) (b : Byte) :
    (deliver s a b d).Sound s a := by
  obtain ⟨_, ps, rows, hdrawn, hps⟩ := h
  obtain ⟨rows', hdrawn'⟩ := hdrawn.deliver b
  obtain ⟨hnext, _⟩ := deliver_spec s a b d
  refine ⟨by omega, _, rows', hdrawn', ?_⟩
  rw [List.length_append, hps, hnext, pixelOf]
  split <;> simp only [List.length_singleton, List.length_nil] <;> omega

theorem ImageDec.Sound.token {d' : ImageDec} (h : d.Sound s a) (hcount : d.count < a.hd.olen)
    (htoken : imageToken s a d = some d') : d'.Sound s a := by
  refine imageToken_induct (fun b e he hlt => he.deliver hlt b) ?_ h hcount htoken
  rintro e br ⟨hle, ps, rows, hdrawn, hps⟩
  exact ⟨hle, ps, rows, ⟨hdrawn.pixels, hdrawn.whole, hdrawn.waiting, hdrawn.row, hdrawn.out⟩, hps⟩

end

/-! ### How DRAW_IMAGE ends (R312, R317, R322) -/

/-- What stays the same in one run of DRAW_IMAGE. -/
def imageArgs (s : State) (x y : Int) (base : Nat) : ImageArgs := ⟨x, y, imageHeader s base⟩

section
variable {s : State} {x y : Int} {base size : Nat}

theorem imageDecode_invisible
    (h : toDevice s ⟨x, y, x + (imageHeader s base).w - 1, y + (imageHeader s base).h - 1⟩ = none) :
    imageDecode s x y base size = ([], true) := by
  simp only [imageDecode, h]

theorem imageDecode_visible {d : ImageDec} {done : Bool}
    (h : toDevice s ⟨x, y, x + (imageHeader s base).w - 1, y + (imageHeader s base).h - 1⟩ ≠ none)
    (hrun : imageLoop s (imageArgs s x y base) (imageHeader s base).olen
      (imageStart base size (imageHeader s base)) = (d, done)) :
    imageDecode s x y base size = (d.out, done) := by
  obtain ⟨b, hb⟩ := Option.ne_none_iff_exists'.1 h
  rw [imageArgs] at hrun
  simp only [imageDecode, hb, hrun]

theorem exec_drawImage_done {evs : List Event} (hnest : s.nest = 0) (herr : imageError s base size = none)
    (hdecode : imageDecode s x y base size = (evs, true)) :
    exec (.drawImage x y base size) s = .next (s.afterDrawing evs) := by
  simp only [exec, execDrawImage, herr, hdecode, if_true, complete_eq, bracket_eq s evs hnest]
  rfl

theorem exec_drawImage_cut {evs : List Event} (hnest : s.nest = 0) (herr : imageError s base size = none)
    (hdecode : imageDecode s x y base size = (evs, false)) : exec (.drawImage x y base size) s =
      .next ({ s with events := s.events ++ Event.acq :: (evs ++ [Event.rel]) }.afterFailure .imgBackref) := by
  simp only [exec, execDrawImage, herr, hdecode, if_neg Bool.false_ne_true,
    failLate_eq .imgBackref _ (by decide : ErrCode.imgBackref ≠ .ok), State.paint_enter]
  simp [State.afterFailure, State.enter, hnest]

/-- The end of a visible image: all its rows are drawn, or a token failed and fewer are. -/
theorem imageDecode_rows (herr : imageError s base size = none)
    (hvisible : toDevice s ⟨x, y, x + (imageHeader s base).w - 1, y + (imageHeader s base).h - 1⟩ ≠ none) :
    ∃ rows : List (List Half), (∀ row ∈ rows, row.length = (imageHeader s base).w) ∧
      ((rows.length = (imageHeader s base).h ∧ imageDecode s x y base size = (imageRows s x y rows, true)) ∨
        (rows.length < (imageHeader s base).h ∧ (∃ br, (imageHeader s base).win < (readNumber s br).1 - 1) ∧
          imageDecode s x y base size = (imageRows s x y rows, false))) := by
  obtain ⟨_, hw, _, holen⟩ := imageError_none herr
  have hstart : (imageStart base size (imageHeader s base)).Sound s (imageArgs s x y base) :=
    ⟨Nat.zero_le _, [], [], drawn_imageStart base size hw, (Nat.zero_div 2).symm⟩
  obtain ⟨d, ⟨hle, ps, rows, hdrawn, hps⟩, hend⟩ := imageLoop_induct (fun _ _ he hlt => he.token hlt)
    (imageHeader s base).olen _ hstart (Nat.le_add_left _ _)
  have hrows : rows.length = d.count / 2 / (imageHeader s base).w := hps ▸ hdrawn.length_rows
  refine ⟨rows, hdrawn.whole, ?_⟩
  rcases hend with ⟨hge, hrun⟩ | ⟨hlt, htoken, hrun⟩
  · have hcount : d.count = 2 * (imageHeader s base).w * (imageHeader s base).h := holen ▸ Nat.le_antisymm hle hge
    have hdecode := imageDecode_visible hvisible (Nat.add_zero _ ▸ hrun 0)
    refine .inl ⟨?_, hdecode.trans (by rw [hdrawn.out]; rfl)⟩
    rw [hrows, hcount, Nat.mul_assoc, Nat.mul_div_cancel_left _ (by decide), Nat.mul_div_cancel_left _ hw]
  · have hcount : d.count < 2 * ((imageHeader s base).w * (imageHeader s base).h) := by
      rw [← Nat.mul_assoc, ← holen]
      exact hlt
    have hdecode := imageDecode_visible hvisible (Nat.add_zero _ ▸ hrun 0)
    refine .inr ⟨?_, imageToken_eq_none htoken, hdecode.trans (by rw [hdrawn.out]; rfl)⟩
    rw [hrows]
    exact Nat.div_lt_of_lt_mul (by omega)

end

/-- Settles O57: a decode ends as `imageDecode_rows` says, and no offset of the code is above 126. -/
theorem imageDrawsItsRows : Obligations.ImageDrawsItsRows := by
  intro x y base size s hpar hnest herr
  dsimp only
  refine ⟨fun hhidden => ?_, fun hvisible hwin => ?_, fun hvisible => ?_⟩
  · exact exec_drawImage_done hnest herr (imageDecode_invisible (not_not.1 hhidden))
  · obtain ⟨rows, hwhole, ⟨hlen, hdecode⟩ | ⟨_, ⟨br, hbr⟩, _⟩⟩ := imageDecode_rows herr hvisible
    · exact ⟨rows, hlen, hwhole, exec_drawImage_done hnest herr hdecode⟩
    · have hmax := readNumber_le s (Params.wf_rnMaxWidth hpar) br
      omega
  · obtain ⟨rows, hwhole, ⟨hlen, hdecode⟩ | ⟨hlen, _, hdecode⟩⟩ := imageDecode_rows herr hvisible
    · exact .inl ⟨rows, hlen, hwhole, exec_drawImage_done hnest herr hdecode⟩
    · exact .inr ⟨rows, hlen, hwhole, exec_drawImage_cut hnest herr hdecode⟩

end Sys2Proof.Machine
end

section
/-! SUPPORT. A body of literals (48_image.md R318 to R321, R323, R325): what the reader reads of one literal, the
pixels of the whole body, and the rows of an image that is not visible. -/

namespace Sys2Proof.Machine

/-! ### One literal (41_bitreader.md R141, R143, R320) -/

section
variable {s : State}

/-- The loop of `readBits` adds a number whose bits it reads, the most significant first. -/
theorem readBitsLoop_of_bits (n : Nat) : ∀ (v c : Nat) (br : BitReader),
    (∀ k < n, (readBit s { br with pos := br.pos + k }).1 = (c.testBit (n - 1 - k)).toNat) →
    (readBitsLoop s n v br).1 = v * 2 ^ n + c % 2 ^ n := by
  induction n with
  | zero => intro v c br _; simp [readBitsLoop, Nat.mod_one]
  | succ n ih =>
    intro v c br hbits
    have hfirst : (readBit s br).1 = (c.testBit n).toNat := hbits 0 (Nat.succ_pos n)
    have hrest : ∀ k < n, (readBit s { br with pos := br.pos + 1 + k }).1 = (c.testBit (n - 1 - k)).toNat := by
      intro k hk
      rw [Nat.add_assoc, Nat.add_comm 1 k, hbits (k + 1) (by omega), show n + 1 - 1 - (k + 1) = n - 1 - k by omega]
    have hmod : c % 2 ^ (n + 1) = c % 2 ^ n + 2 ^ n * (c.testBit n).toNat := by
      rw [Nat.pow_succ, Nat.mod_mul, Nat.testBit_eq_decide_div_mod_eq]
      rcases Nat.mod_two_eq_zero_or_one (c / 2 ^ n) with h | h <;> simp [h]
    rw [readBitsLoop, (readBit_spec s br).2, ih _ c _ hrest, hfirst, hmod]
    ring

variable (base : Nat) (len : Nat)

/-- The reader of an image's body of `len` bytes, at bit `pos`. -/
def bodyReader (pos : Nat) : BitReader := ⟨base + 12, len, pos⟩

variable {base len}

theorem readBit_body {pos : Nat} (h : pos < 8 * len) :
    (readBit s (bodyReader base len pos)).1 = (imageBit s base pos).toNat := by
  simp [readBit, bodyReader, imageBit, Nat.not_le.2 h]

theorem readBit_pastBody {pos : Nat} (h : 8 * len ≤ pos) : (readBit s (bodyReader base len pos)).1 = 0 := by
  simp [readBit, bodyReader, h]

theorem readBits_body {pos : Nat} {b : Byte} (h : pos + 8 ≤ 8 * len)
    (hbits : ∀ k < 8, imageBit s base (pos + k) = b.getLsbD (7 - k)) :
    (readBits s 8 (bodyReader base len pos)).1 = b.toNat := by
  have hread : ∀ k < 8, (readBit s (bodyReader base len (pos + k))).1 = (b.toNat.testBit (8 - 1 - k)).toNat := by
    intro k hk
    rw [readBit_body (by omega), hbits k hk]
    rfl
  have hin : ¬ 8 * (bodyReader base len pos).size < (bodyReader base len pos).pos + 8 := Nat.not_lt.2 h
  rw [readBits, if_neg hin, readBitsLoop_of_bits 8 0 b.toNat (bodyReader base len pos) hread, Nat.zero_mul,
    Nat.zero_add, Nat.mod_eq_of_lt b.isLt]

theorem readBits_pastBody {pos : Nat} (h : 8 * len < pos + 8) : (readBits s 8 (bodyReader base len pos)).1 = 0 := by
  rw [readBits]
  exact congrArg Prod.fst (if_pos h)

/-- Token `j` of a body of literals is the literal `b`: a 0 bit and the bits of `b`; where they pass the end of the
body, the literal is 0 (R323). -/
structure LiteralAt (s : State) (base len j : Nat) (b : Byte) : Prop where
  flag : 9 * j < 8 * len → imageBit s base (9 * j) = false
  bits : 9 * j + 9 ≤ 8 * len → ∀ k < 8, imageBit s base (9 * j + 1 + k) = b.getLsbD (7 - k)
  past : 8 * len < 9 * j + 9 → b = 0

theorem imageToken_literal {a : ImageArgs} {d : ImageDec} {j : Nat} {b : Byte} (h : LiteralAt s base len j b)
    (hreader : d.br = bodyReader base len (9 * j)) :
    imageToken s a d = some (deliver s a b { d with br := bodyReader base len (9 * (j + 1)) }) := by
  have hflag : (readBit s d.br).1 = 0 := by
    rw [hreader]
    rcases Nat.lt_or_ge (9 * j) (8 * len) with hin | hpast
    · rw [readBit_body hin, h.flag hin]
      rfl
    · exact readBit_pastBody hpast
  have hbehind : (readBit s d.br).2 = bodyReader base len (9 * j + 1) := by
    rw [hreader, (readBit_spec s _).2]
    rfl
  have hbyte : (readBits s 8 (bodyReader base len (9 * j + 1))).1 = b.toNat := by
    rcases Nat.lt_or_ge (8 * len) (9 * j + 9) with hpast | hin
    · rw [readBits_pastBody (by omega), h.past hpast]
      rfl
    · exact readBits_body hin (h.bits hin)
  have hnext : (readBits s 8 (bodyReader base len (9 * j + 1))).2 = bodyReader base len (9 * (j + 1)) :=
    (readBits_spec s 8 _).2
  simp only [imageToken, hflag, if_true, hbehind, hbyte, hnext, BitVec.ofNat_toNat, BitVec.setWidth_eq]

end

/-! ### The pixels of the body (R319, R321) -/

/-- Pixel `k` of the data: two bytes, the first the more significant. -/
def dataPixel (bytes : Nat → Byte) (k : Nat) : Half := bytes (2 * k) ++ bytes (2 * k + 1)

/-- The decoder has delivered `count` bytes of the data, each a literal of the body. -/
structure ImageDec.Literal (s : State) (a : ImageArgs) (base len : Nat) (bytes : Nat → Byte) (d : ImageDec) :
    Prop where
  count : d.count ≤ a.hd.olen
  reader : d.br = bodyReader base len (9 * d.count)
  half : d.count % 2 = 1 → d.hi = bytes (d.count - 1)
  drawn : ∃ rows, d.Drawn s a ((List.range (d.count / 2)).map (dataPixel bytes)) rows

section
variable {s : State} {a : ImageArgs} {base len : Nat} {bytes : Nat → Byte} {d : ImageDec}

/-- The byte delivered completes the next pixel of the data, if it completes one. -/
theorem dataPixels_succ (hhalf : d.count % 2 = 1 → d.hi = bytes (d.count - 1)) :
    (List.range (d.count / 2)).map (dataPixel bytes) ++ pixelOf (bytes d.count) d =
      (List.range ((d.count + 1) / 2)).map (dataPixel bytes) := by
  rcases Nat.mod_two_eq_zero_or_one d.count with heven | hodd
  · rw [pixelOf, if_neg (by omega), List.append_nil, show (d.count + 1) / 2 = d.count / 2 by omega]
  · rw [pixelOf, if_pos hodd, hhalf hodd, show (d.count + 1) / 2 = d.count / 2 + 1 by omega, List.range_succ,
      List.map_append, List.map_singleton, dataPixel, show 2 * (d.count / 2) = d.count - 1 by omega,
      Nat.sub_add_cancel (by omega)]

theorem literal_imageStart (base size : Nat) (hw : 1 ≤ a.hd.w) :
    (imageStart base size a.hd).Literal s a base (min a.hd.clen (size - 12)) bytes := by
  have hnone : (List.range ((imageStart base size a.hd).count / 2)).map (dataPixel bytes) = [] := by simp [imageStart]
  refine ⟨Nat.zero_le _, rfl, fun hodd => absurd hodd (by simp [imageStart]), [], ?_⟩
  rw [hnone]
  exact drawn_imageStart base size hw

theorem ImageDec.Literal.token (hbody : ∀ j < a.hd.olen, LiteralAt s base len j (bytes j))
    (h : d.Literal s a base len bytes) (hcount : d.count < a.hd.olen) :
    ∃ d', imageToken s a d = some d' ∧ d'.Literal s a base len bytes := by
  obtain ⟨_, hreader, hhalf, rows, hdrawn⟩ := h
  refine ⟨_, imageToken_literal (hbody _ hcount) hreader, ?_⟩
  have hmoved : { d with br := bodyReader base len (9 * (d.count + 1)) }.Drawn s a
      ((List.range (d.count / 2)).map (dataPixel bytes)) rows :=
    ⟨hdrawn.pixels, hdrawn.whole, hdrawn.waiting, hdrawn.row, hdrawn.out⟩
  obtain ⟨rows', hdrawn'⟩ := hmoved.deliver (bytes d.count)
  obtain ⟨hnext, hbr, _⟩ :=
    deliver_spec s a (bytes d.count) { d with br := bodyReader base len (9 * (d.count + 1)) }
  refine ⟨by rw [hnext]; exact hcount, by rw [hbr, hnext], fun hodd => ?_, rows', ?_⟩
  · rw [hnext] at hodd ⊢
    exact deliver_hi _ (by dsimp only at hodd ⊢; omega)
  · rw [hnext, ← dataPixels_succ hhalf]
    exact hdrawn'

/-- A body of literals is decoded to its end. -/
theorem imageLoop_literals (hbody : ∀ j < a.hd.olen, LiteralAt s base len j (bytes j))
    (h : d.Literal s a base len bytes) :
    ∃ d', imageLoop s a a.hd.olen d = (d', true) ∧ d'.count = a.hd.olen ∧ d'.Literal s a base len bytes := by
  have hkeeps : ∀ e e', e.Literal s a base len bytes → e.count < a.hd.olen → imageToken s a e = some e' →
      e'.Literal s a base len bytes := fun e e' he hlt htoken => by
    obtain ⟨f, hf, hliteral⟩ := he.token hbody hlt
    obtain rfl : f = e' := Option.some.inj (hf.symm.trans htoken)
    exact hliteral
  obtain ⟨d', hd', ⟨hge, hrun⟩ | ⟨hlt, htoken, _⟩⟩ := imageLoop_induct hkeeps a.hd.olen d h (Nat.le_add_left _ _)
  · exact ⟨d', hrun 0, Nat.le_antisymm hd'.count hge, hd'⟩
  · obtain ⟨_, hsome, _⟩ := hd'.token hbody hlt
    rw [htoken] at hsome
    cases hsome

/-- The rows of `w` pixels that a sequence of `h * w` pixels makes. -/
theorem rows_of_flatten {rows : List (List Half)} {h w : Nat} {pixel : Nat → Half} (hlen : rows.length = h)
    (hwhole : ∀ row ∈ rows, row.length = w) (hflat : rows.flatten = (List.range (h * w)).map pixel) :
    rows = (List.range h).map fun r => (List.range w).map fun c => pixel (r * w + c) := by
  have hgrid : ∀ n, ((List.range n).map fun r => (List.range w).map fun c => pixel (r * w + c)).flatten =
      (List.range (n * w)).map pixel := by
    intro n
    induction n with
    | zero => simp
    | succ n ih =>
      rw [List.range_succ, List.map_append, List.flatten_append, ih, Nat.succ_mul, List.range_add, List.map_append]
      simp
  refine List.eq_iff_flatten_eq.2 ⟨by rw [hflat, hgrid], ?_⟩
  rw [List.eq_replicate_iff.2 ⟨(List.length_map _).trans hlen, by simpa using hwhole⟩]
  exact (List.eq_replicate_iff.2 ⟨by simp, by simp⟩).symm

/-- The rows that a body of literals decodes to. -/
def literalRows (bytes : Nat → Byte) (hd : ImageHeader) : List (List Half) :=
  (List.range hd.h).map fun r => (List.range hd.w).map fun c => dataPixel bytes (r * hd.w + c)

/-- At the declared length no pixel waits, and the rows are those of the data. -/
theorem ImageDec.Literal.out_at_end (h : d.Literal s a base len bytes) (hcount : d.count = a.hd.olen)
    (holen : a.hd.olen = 2 * a.hd.w * a.hd.h) : d.out = imageRows s a.x a.y (literalRows bytes a.hd) := by
  obtain ⟨_, _, _, rows, hdrawn⟩ := h
  have hpixels : d.count / 2 = a.hd.h * a.hd.w := by
    rw [hcount, holen, Nat.mul_assoc, Nat.mul_div_cancel_left _ (by decide), Nat.mul_comm]
  rw [hpixels] at hdrawn
  have hlen : rows.length = a.hd.h := by
    rw [hdrawn.length_rows, List.length_map, List.length_range]
    exact Nat.mul_div_cancel _ (Nat.zero_lt_of_lt hdrawn.waiting)
  have hall := hdrawn.length_pixels
  rw [List.length_map, List.length_range, hlen] at hall
  have hempty : d.rowbuf = [] := List.length_eq_zero_iff.1 (Nat.add_eq_left.1 hall.symm)
  have hflat : rows.flatten = (List.range (a.hd.h * a.hd.w)).map (dataPixel bytes) := by
    rw [← hdrawn.pixels, hempty, List.append_nil]
  rw [hdrawn.out, rows_of_flatten hlen hdrawn.whole hflat]
  rfl

end

/-! ### An image that is not visible (R317) -/

section
variable {s : State}

/-- A rectangle inside an invisible one is invisible. -/
theorem clipToVisible_none_of_subset {r r' : Rect} (hx1 : r'.x1 ≤ r.x1) (hy1 : r'.y1 ≤ r.y1) (hx2 : r.x2 ≤ r'.x2)
    (hy2 : r.y2 ≤ r'.y2) (h : clipToVisible s r' = none) : clipToVisible s r = none := by
  cases hr : clipToVisible s r with
  | none => rfl
  | some c =>
    obtain ⟨_, hbounds⟩ := clipToVisible_some s r c hr
    unfold clipToVisible at h
    dsimp only at h
    rw [if_neg (by omega), if_neg (by omega)] at h
    cases h

theorem transformToDevice_subset {r r' : Rect} (hx : r.x1 ≤ r.x2) (hy : r.y1 ≤ r.y2) (hx1 : r'.x1 ≤ r.x1)
    (hy1 : r'.y1 ≤ r.y1) (hx2 : r.x2 ≤ r'.x2) (hy2 : r.y2 ≤ r'.y2) :
    (transformToDevice s r').x1 ≤ (transformToDevice s r).x1 ∧
      (transformToDevice s r').y1 ≤ (transformToDevice s r).y1 ∧
      (transformToDevice s r).x2 ≤ (transformToDevice s r').x2 ∧
      (transformToDevice s r).y2 ≤ (transformToDevice s r').y2 := by
  cases ho : s.orient with
  | portrait | landscape | portraitFlip | landscapeFlip =>
    simp only [transformToDevice, rectNorm, transformPoint, ho]
    omega

theorem toDevice_none_of_subset {r r' : Rect} (hx : r.x1 ≤ r.x2) (hy : r.y1 ≤ r.y2) (hx1 : r'.x1 ≤ r.x1)
    (hy1 : r'.y1 ≤ r.y1) (hx2 : r.x2 ≤ r'.x2) (hy2 : r.y2 ≤ r'.y2) (h : toDevice s r' = none) :
    toDevice s r = none := by
  obtain ⟨h1, h2, h3, h4⟩ := transformToDevice_subset (s := s) hx hy hx1 hy1 hx2 hy2
  rw [toDevice, rectNorm_eq_self (by omega) (by omega)] at h
  rw [toDevice, rectNorm_eq_self hx hy]
  exact clipToVisible_none_of_subset h1 h2 h3 h4 h

/-- The rows of an invisible image emit nothing, one by one. -/
theorem imageRows_invisible {x y : Int} {w h : Nat} {rows : List (List Half)} (hw : 1 ≤ w) (hlen : rows.length = h)
    (hwhole : ∀ row ∈ rows, row.length = w) (hhidden : toDevice s ⟨x, y, x + w - 1, y + h - 1⟩ = none) :
    imageRows s x y rows = [] := by
  rw [imageRows, List.flatMap_eq_nil_iff]
  intro k hk
  rw [List.mem_range] at hk
  have hrow : (rows.getD k []).length = w := by
    rw [List.getD_eq_getElem _ _ hk]
    exact hwhole _ (List.getElem_mem hk)
  have hnone : toDevice s ⟨x, y + k, x + (rows.getD k []).length - 1, y + k⟩ = none := by
    refine toDevice_none_of_subset ?_ ?_ ?_ ?_ ?_ ?_ hhidden <;> dsimp only <;> omega
  rw [emitRow, hnone]

end

theorem imageDecode_literals {s : State} {x y : Int} {base size : Nat} {bytes : Nat → Byte}
    (herr : imageError s base size = none)
    (hbody : ∀ j < (imageHeader s base).olen,
      LiteralAt s base (min (imageHeader s base).clen (size - 12)) j (bytes j)) :
    imageDecode s x y base size = (imageRows s x y (literalRows bytes (imageHeader s base)), true) := by
  obtain ⟨_, hw, _, holen⟩ := imageError_none herr
  by_cases hhidden : toDevice s ⟨x, y, x + (imageHeader s base).w - 1, y + (imageHeader s base).h - 1⟩ = none
  · rw [imageDecode_invisible hhidden,
      imageRows_invisible hw (by simp [literalRows]) (by simp [literalRows]) hhidden]
  · have hstart : (imageStart base size (imageHeader s base)).Literal s (imageArgs s x y base) base
        (min (imageHeader s base).clen (size - 12)) bytes :=
      literal_imageStart base size hw
    obtain ⟨d, hrun, hcount, hliteral⟩ := imageLoop_literals hbody hstart
    rw [imageDecode_visible hhidden hrun, hliteral.out_at_end hcount holen]
    rfl

/-- Settles O58: each token is a literal, so the decode ends with the pixels of the data in rows. -/
theorem literalImageDecodes : Obligations.LiteralImageDecodes := by
  intro x y base size bytes s hnest herr
  dsimp only
  intro hbody
  refine exec_drawImage_done hnest herr (imageDecode_literals herr fun j hj => ?_)
  obtain ⟨hflag, hbits, hpast⟩ := hbody j hj
  exact ⟨hflag, hbits, hpast⟩

end Sys2Proof.Machine
end
